-- ==== Sys2Proof/Word.lean ====
section
/-! DEFINITION. The word types of the block (00_scope.md R9; 10_state.md, "Widths"). -/

namespace Sys2Proof

/-- A payload byte, a port number, a segment key, a slot index as a register holds it (u8). -/
abbrev Byte := BitVec 8

/-- A 24-bit payload field, u24 or s24 (20_memory.md R44). -/
abbrev U24 := BitVec 24

/-- A 32-bit register, u32 or s32 (10_state.md R10 to R15, R23). -/
abbrev Word := BitVec 32

end Sys2Proof
end

