-- ==== Sys2Proof/Config.lean ====
section
/-! DEFINITION. The configuration record (00_scope.md R5, R6) and the free values of what the spec
leaves unspecified (93_implementation_defined.md U5). -/

namespace Sys2Proof

/-- The implementation parameters of one node (R5). Every operation takes them from the state's `cfg`
and no operation changes them (10_state.md R30; log 1), so a statement about every state is a statement
about every configuration. -/
structure Config where
  /-- `N`, the number of axes. -/
  n : Nat
  /-- `C`, the motion buffer's slot count; `C - 1` segments fit. -/
  c : Nat
  /-- `SB` (smoothingBits), the left shift from host steps to internal microsteps. -/
  sb : Nat
  /-- `HAS_SYNC`, whether port 8 has a handler (D15). -/
  hasSync : Bool
  /-- `TIMEBASE`, the timer period in clk cycles (OPEN, D16). -/
  timebase : Nat
  /-- `DIR_FORWARD_LEVEL[i]`, the level of `dir[i]` for direction +1 (D6). -/
  dirForwardLevel : List Bool
  /-- `RESET_DRIVERS_ENABLED` (OPEN, D4). -/
  resetDriversEnabled : Bool
  deriving DecidableEq, Repr

namespace Config

/-- The 1-axis node of R5. DESIGN CHOICE (log 2): the OPEN parameters stand at the test vectors' convention
`RESET_DRIVERS_ENABLED = 0` (95_test_vectors.md) and at `TIMEBASE = 1`, one clk cycle a TICK. -/
def oneAxis : Config where
  n := 1
  c := 48
  sb := 2
  hasSync := true
  timebase := 1
  dirForwardLevel := [true]
  resetDriversEnabled := false

/-- The 3-axis node of R5, with the same choices for the OPEN parameters (log 2). -/
def threeAxis : Config where
  n := 3
  c := 32
  sb := 2
  hasSync := false
  timebase := 1
  dirForwardLevel := [true, true, true]
  resetDriversEnabled := false

/-- `TICK_PERIOD` in nanoseconds, nominal (R5). No rule reads it (70_reset_and_hazards.md R181). -/
def tickPeriodNanoseconds : Nat := 62500

/-- `STEP_PULSE_MIN` in nanoseconds, a lower bound (R5, U18). No rule reads it (R181). -/
def stepPulseMinNanoseconds : Nat := 1000

/-- `F_CLK` in Hz, `TIMEBASE / TICK_PERIOD` (R5, D16). No rule reads it (R181). -/
def fClkHertz (cfg : Config) : Nat := cfg.timebase * 1000000000 / tickPeriodNanoseconds

/-- Free value (U5, log 4): `target[axis]` of slot `p` before anything is written to it, after the
`epoch`-th RESET. -/
opaque unwrittenTarget (epoch p axis : Nat) : Word

/-- Free value (U5, log 4): `segmentTime` of an unwritten slot, which holds a u24 (10_state.md R24). -/
opaque unwrittenTime (epoch p : Nat) : U24

/-- Free value (U5, log 4): `segmentKey` of an unwritten slot. -/
opaque unwrittenKey (epoch p : Nat) : Byte

/-- Free value (U5, log 4): `absolute` of an unwritten slot. -/
opaque unwrittenAbsolute (epoch p : Nat) : Bool

/-- Free value (U5, log 4): `waitForSync` of an unwritten slot. -/
opaque unwrittenWaitForSync (epoch p : Nat) : Bool

end Config

end Sys2Proof
end

