-- ==== Sys2Proof/Machine/State.lean ====
section
/-! DEFINITION. Everything the spec gives the machine, as plain data (10_state.md), the reasons a step can
stop, and the state after RESET (R31, 70_reset_and_hazards.md R160). -/

namespace Sys2Proof.Machine

/-- `direction[i]`: one of +1, -1 (10_state.md R13). -/
inductive Direction where
  /-- +1 -/
  | forward
  /-- -1 -/
  | backward
  deriving DecidableEq, Repr

/-- The per-axis registers: StepperState (R10 to R13) and the axis's entry of the position ledger (R23).
s32 registers hold their two's-complement pattern. -/
structure Axis where
  /-- u32, the magnitude `K` of the axis delta of the active segment (R10). -/
  targetSteps : Word
  /-- u32, advisory countdown (R11). -/
  stepsRemaining : Word
  /-- s32, `bresenhamAccumulator` (R12). -/
  accum : Word
  /-- R13. -/
  direction : Direction
  /-- s32, in internal microsteps (R23). -/
  position : Word
  deriving DecidableEq, Repr

/-- One MotionSegment record of the slot RAM (R24). -/
structure Slot where
  /-- `target[i]`, s32, in internal microsteps, axis 0 first. -/
  target : List Word
  /-- u32 holding a u24. -/
  segmentTime : Word
  segmentKey : Byte
  absolute : Bool
  waitForSync : Bool
  deriving DecidableEq, Repr

/-- The slot RAM (R24, 20_memory.md R40): the slots written since RESET by index, indices strictly rising.
There is no byte address; a slot that is not listed holds a free value (log 4). -/
abbrev Memory := List (Nat × Slot)

/-- What an operation does at the block's outputs (00_scope.md R8), in the order it does it (log 6). -/
inductive Output where
  /-- One pulse on `step[i]` of every marked axis together (R26, 43_step_generator.md R103). -/
  | pulse (mask : List Bool)
  /-- The levels written to `dir[0 .. N-1]` (R25). -/
  | dir (levels : List Bool)
  /-- The level written to `enable_n` (R22). -/
  | enableN (level : Bool)
  /-- One reply (30_encoding.md R61). -/
  | reply (port : Byte) (payload : List Byte)
  deriving DecidableEq, Repr

/-- What the outside presents to the block (00_scope.md R8; log 5). TICK is raised by the timer from clk. -/
inductive Event where
  /-- Power-on or watchdog (70_reset_and_hazards.md R161). -/
  | reset
  /-- One cycle of the timer clock (60_exceptions.md R150). -/
  | clk
  /-- One inbound command (30_encoding.md R60). -/
  | command (port : Byte) (payload : List Byte)
  deriving DecidableEq, Repr

/-- The state of one node. -/
structure State where
  /-- The configuration; no operation changes it (R30; log 1). -/
  cfg : Config
  /-- Per-axis registers, axis 0 first (R10 to R13, R23). -/
  axes : List Axis
  /-- u32 (R14). -/
  bresenhamThreshold : Word
  /-- u32 holding a u24 (R15). -/
  totalTime : Word
  /-- u32 holding a u24; 0 is idle (R20). -/
  timeRemaining : Word
  /-- Key of the most recently loaded segment (R16). -/
  segmentKey : Byte
  /-- Slot most recently loaded (R17). -/
  readPosition : Byte
  /-- Slot most recently published (R18). -/
  writePosition : Byte
  /-- How far SYNC has searched (R19). -/
  syncSearchPosition : Byte
  /-- R21. -/
  waitingForSync : Bool
  /-- R22. -/
  driversEnabled : Bool
  /-- The timer counter (R27). -/
  tcnt : Nat
  /-- The slot RAM (R24). -/
  slots : Memory
  /-- The outputs of the last operation, in order (log 6). -/
  out : List Output
  /-- What the outside presents next, oldest first (log 5). -/
  inputs : List Event
  /-- How many RESETs there have been: what the free value of an unwritten slot is applied to (log 4). -/
  epoch : Nat
  deriving DecidableEq, Repr

/-- The model-level fault of the spec (60_exceptions.md R140: no hardware event). -/
inductive Fault where
  /-- Raised by TICK when an accumulator's sum or difference is no s32: the spec gives it no value and says a
  model stops (43_step_generator.md R108, D12). Safe (log 9). -/
  | accumulatorOverflow
  deriving DecidableEq, Repr

/-- Commands the spec gives no meaning. -/
inductive Refusal where
  /-- Raised by `exec` for an instruction that has no meaning yet; no arm does. Safe. -/
  | notModelled (mnemonic : String)
  /-- Raised by the step on a payload shorter than its port's format (30_encoding.md R74, D14). Safe (log 10). -/
  | shortPayload
  /-- Raised by the step on a flag byte in `2 .. 255` (30_encoding.md R73, D13). Safe (log 10). -/
  | reservedFlagValue
  /-- Raised by STEP_REQUEST on a term with another number of targets than the node has axes: no decoded
  command is one (WellFormed). Safe (log 14). -/
  | targetCount
  deriving DecidableEq, Repr

/-- The per-axis registers after RESET (R31). -/
def Axis.reset : Axis where
  targetSteps := 0
  stepsRemaining := 0
  accum := 0
  direction := .forward
  position := 0

/-- The state after RESET of a node with configuration `cfg` (R31, R160): idle, empty, not waiting, every
register at R31's value, no slot written, and the output pins at their reset levels (70_reset_and_hazards.md
R162 item 2). `epoch` counts the RESETs (log 4). -/
def State.resetOf (cfg : Config) (epoch : Nat) : State where
  cfg := cfg
  axes := List.replicate cfg.n Axis.reset
  bresenhamThreshold := 0
  totalTime := 0
  timeRemaining := 0
  segmentKey := 0
  readPosition := 0
  writePosition := 0
  syncSearchPosition := 0
  waitingForSync := false
  driversEnabled := cfg.resetDriversEnabled
  tcnt := 0
  slots := []
  out := [.dir ((List.range cfg.n).map fun i => cfg.dirForwardLevel.getD i true),
    .enableN (!cfg.resetDriversEnabled)]
  inputs := []
  epoch := epoch

/-- The machine right after reset: the 1-axis node (log 2). -/
def State.reset : State := State.resetOf Config.oneAxis 0

end Sys2Proof.Machine
end

