-- ==== Sys2Proof/Machine/Flags.lean ====
section
/-! DEFINITION. The block's flags and every sign, comparison and overflow computation the spec gives:
direction and magnitude of a delta (42_segment_loader.md R92), the output levels that mirror flags
(10_state.md R22, R25, R26), and the s32 range check behind the one fault (43_step_generator.md R105, R108).
There are no condition codes (10_state.md section 3). -/

namespace Sys2Proof.Machine

/-- Whether an exact integer is an s32 (R105). -/
def fitsS32 (x : Int) : Bool := decide (-2147483648 ≤ x) && decide (x < 2147483648)

/-- `direction[i] = -1` exactly when the delta is negative (R92; a zero delta is forward, D5, log 12). -/
def directionOf (delta : Word) : Direction := if delta.slt 0 then .backward else .forward

/-- `|delta|` as a u32; `-2^31` gives `2^31` (R92, D11, log 11). -/
def magnitudeOf (delta : Word) : Word := if delta.slt 0 then -delta else delta

/-- What one step adds to the ledger: +1 or -1 (R13). -/
def Direction.delta : Direction → Word
  | .forward => 1
  | .backward => -1

/-- `dir[i]` for a direction: the forward level or its complement (R25, D6; log 12). -/
def dirLevel (cfg : Config) (i : Nat) : Direction → Bool
  | .forward => cfg.dirForwardLevel.getD i true
  | .backward => !(cfg.dirForwardLevel.getD i true)

/-- The levels of all `dir` outputs, which mirror `direction[i]` between loads too (R25). -/
def State.dirLevels (s : State) : List Bool := s.axes.mapIdx fun i a => dirLevel s.cfg i a.direction

/-- `enable_n = NOT driversEnabled` (R22). -/
def State.enableN (s : State) : Bool := !s.driversEnabled

/-- The levels of all `step` outputs between operations: low, since a pulse ends inside its TICK (R26,
43_step_generator.md R103). -/
def State.stepLevels (s : State) : List Bool := s.axes.map fun _ => false

end Sys2Proof.Machine
end

