-- ==== Sys2Proof/Machine/Ops.lean ====
section
/-! DEFINITION. The named operations over slot RAM, indices, registers and outputs that every meaning goes
through. The block has no exception entry and no return (60_exceptions.md R140, R145), so none stands here:
taking a TICK saves and restores nothing. -/

namespace Sys2Proof.Machine

/-! ### Slot RAM (10_state.md R24, 20_memory.md R40) -/

/-- What slot `p` of a node with `n` axes holds before anything is written to it: free values (U5, log 4). -/
def unwrittenSlot (epoch n p : Nat) : Slot where
  target := (List.range n).map (Config.unwrittenTarget epoch p)
  segmentTime := (Config.unwrittenTime epoch p).setWidth 32
  segmentKey := Config.unwrittenKey epoch p
  absolute := Config.unwrittenAbsolute epoch p
  waitForSync := Config.unwrittenWaitForSync epoch p

/-- The record listed for slot `p`, if any. -/
def Memory.find (p : Nat) : Memory → Option Slot
  | [] => none
  | (q, v) :: m => if q = p then some v else Memory.find p m

/-- `slot[p] <- v`, all fields of one slot; the indices stay strictly rising. -/
def Memory.write (p : Nat) (v : Slot) : Memory → Memory
  | [] => [(p, v)]
  | (q, u) :: m =>
    if p < q then (p, v) :: (q, u) :: m
    else if p = q then (p, v) :: m
    else (q, u) :: Memory.write p v m

/-- The canonical form: indices strictly rising. (No listed entry can be told equal to what an unlisted slot
holds, which is a free value, log 4.) -/
def Memory.sorted : Memory → Bool
  | [] => true
  | [_] => true
  | (p, _) :: (q, v) :: m => decide (p < q) && Memory.sorted ((q, v) :: m)

/-- One slot record of a node with `n` axes: one target per axis, the time a u24 (R24). -/
def Slot.wellFormed (n : Nat) (v : Slot) : Bool :=
  decide (v.target.length = n) && decide (v.segmentTime.toNat < 16777216)

/-- Canonical form, every index a slot of the RAM (R40: `0 .. C-1`), every record well-formed. -/
def Memory.wf (n c : Nat) (m : Memory) : Bool :=
  Memory.sorted m && m.all fun e => decide (e.1 < c) && e.2.wellFormed n

/-- `slot[p]` (00_scope.md R9). -/
def State.slotAt (s : State) (p : Byte) : Slot :=
  (Memory.find p.toNat s.slots).getD (unwrittenSlot s.epoch s.cfg.n p.toNat)

/-- `slot[p] <- v`. -/
def State.writeSlot (p : Byte) (v : Slot) (s : State) : State :=
  { s with slots := Memory.write p.toNat v s.slots }

/-- `slot[p].waitForSync <- 0` (44_commands.md R126). -/
def State.clearWaitForSync (p : Byte) (s : State) : State :=
  s.writeSlot p { s.slotAt p with waitForSync := false }

/-! ### Indices (41_motion_buffer.md R80) -/

/-- `(p + 1) mod C`. -/
def nextIndex (c : Nat) (p : Byte) : Byte := BitVec.ofNat 8 ((p.toNat + 1) % c)

/-- `(b - a) mod C`: how often `a` is advanced to reach `b`. -/
def distance (c : Nat) (a b : Byte) : Nat := (b.toNat + c - a.toNat) % c

/-- `occupancy` (R80). -/
def State.occupancy (s : State) : Nat := distance s.cfg.c s.readPosition s.writePosition

/-- `empty` (R80). -/
def State.bufferEmpty (s : State) : Bool := s.writePosition == s.readPosition

/-- `full` (R80). -/
def State.bufferFull (s : State) : Bool := nextIndex s.cfg.c s.writePosition == s.readPosition

/-- The oldest queued slot, `(readPosition + 1) mod C`. -/
def State.headIndex (s : State) : Byte := nextIndex s.cfg.c s.readPosition

/-! ### Register writes -/

def State.setReadPosition (p : Byte) (s : State) : State := { s with readPosition := p }

/-- The publication of a slot (20_memory.md R46). -/
def State.setWritePosition (p : Byte) (s : State) : State := { s with writePosition := p }

def State.setSyncSearchPosition (p : Byte) (s : State) : State := { s with syncSearchPosition := p }

def State.setWaitingForSync (b : Bool) (s : State) : State := { s with waitingForSync := b }

def State.setTcnt (t : Nat) (s : State) : State := { s with tcnt := t }

/-! ### Outputs (log 6) -/

/-- One more output of the operation in progress. -/
def State.emit (o : Output) (s : State) : State := { s with out := s.out ++ [o] }

/-- `reply(port, bytes)` (30_encoding.md R61). -/
def State.sendReply (port : Byte) (payload : List Byte) (s : State) : State := s.emit (.reply port payload)

/-- `driversEnabled <- b`, with `enable_n` following (10_state.md R22). -/
def State.setDriversEnabled (b : Bool) (s : State) : State := { s with driversEnabled := b }.emit (.enableN (!b))

/-- Pulse `step[i]` for every marked axis together; with no axis marked no output changes
(43_step_generator.md R103). -/
def State.emitPulse (mask : List Bool) (s : State) : State := if mask.any id then s.emit (.pulse mask) else s

/-- The `stepMask` of the last operation (10_state.md R26): which axes it pulsed. -/
def State.stepMask (s : State) : List Bool :=
  s.out.foldl (fun m o => match o with
    | .pulse mask => mask
    | .dir _ => m
    | .enableN _ => m
    | .reply _ _ => m) (s.axes.map fun _ => false)

/-- The replies of the last operation, port and payload; at most one. -/
def State.replies (s : State) : List (Byte × List Byte) :=
  s.out.filterMap fun o => match o with
    | .pulse _ => none
    | .dir _ => none
    | .enableN _ => none
    | .reply port payload => some (port, payload)

/-! ### Inputs (log 5) -/

/-- What happens next: the oldest input, or, when none is presented, a cycle of the clock, which never
stops (60_exceptions.md R142). -/
def State.nextEvent (s : State) : Event := s.inputs.headD .clk

/-- The start of an operation: its input is taken and no output of it has happened yet. -/
def State.takeEvent (s : State) : State := { s with inputs := s.inputs.tail, out := [] }

/-- A command presented before everything else in `inputs`. -/
def State.present (port : Byte) (payload : List Byte) (s : State) : State :=
  { s with inputs := .command port payload :: s.inputs }

end Sys2Proof.Machine
end

