-- ==== Sys2Proof/Machine/MotionBuffer.lean ====
section
/-! DEFINITION. The motion buffer's two operations (41_motion_buffer.md R81, R82). -/

namespace Sys2Proof.Machine

/-- What enqueue returns (R81). -/
inductive EnqueueResult where
  | ok
  | full
  deriving DecidableEq, Repr

/-- What tryLoadNext returns (R82). -/
inductive LoadResult where
  | ok
  | empty
  | blocked
  deriving DecidableEq, Repr

/-- `enqueue(seg)` (R81): the slot in full, then the publication. -/
def enqueue (seg : Slot) (s : State) : EnqueueResult × State :=
  let w' := nextIndex s.cfg.c s.writePosition
  if w' = s.readPosition then (.full, s) else (.ok, (s.writeSlot w' seg).setWritePosition w')

/-- `syncSearchPosition` moves along with `readPosition` when the two were equal (R82). -/
def followRead (r' : Byte) (s : State) : State :=
  if s.syncSearchPosition = s.readPosition then s.setSyncSearchPosition r' else s

/-- `tryLoadNext()` (R82). -/
def tryLoadNext (s : State) : LoadResult × State :=
  let r' := s.headIndex
  if s.readPosition = s.writePosition then (.empty, s)
  else if (s.slotAt r').waitForSync then (.blocked, s.setWaitingForSync true)
  else (.ok, (followRead r' (s.setWaitingForSync false)).setReadPosition r')

end Sys2Proof.Machine
end

