-- ==== Sys2Proof/Syntax.lean ====
section
/-! DEFINITION. The operation set: one constructor per row of opcode_table.json (00_scope.md section 7:
an instruction of this block is a command selected by its port, 30_encoding.md R60, R62). -/

namespace Sys2Proof

/-- A decoded command with its operands. TICK, clk and RESET are events, not commands, and have no row. -/
inductive Instr where
  /-- Port 8, no operand (44_commands.md R126). -/
  | sync
  /-- Port 11, setVRef / getVRef, an external service (R127). -/
  | vrefExternal
  /-- Port 12, payload byte 0 (R121): zero disables, any other value enables. -/
  | enableDrivers (enable : Byte)
  /-- Port 13 (R122): one signed 24-bit target per axis in host-visible steps, axis 0 first, then the
  segment's time, key and two flags (30_encoding.md R67). -/
  | stepRequest (targets : List U24) (segmentTime : U24) (segmentKey : Byte) (absolute waitForSync : Bool)
  /-- Port 14, no operand (R123). -/
  | getPosition
  /-- Port 15, no operand (R124). -/
  | getStatus
  /-- Port 16, PWM, an external service (R127). -/
  | pwmExternal
  deriving DecidableEq, Repr

end Sys2Proof
end

