-- ==== Sys2Proof/WellFormed.lean ====
section
/-! DEFINITION. Which configurations the spec admits (00_scope.md R6) and which terms of `Instr` a node
with `n` axes can be sent (30_encoding.md R67). -/

namespace Sys2Proof

/-- R6: `N >= 1`, `2 <= C <= 256`, `0 <= SB <= 8`; one forward level per axis (R5); the timer period is
at least one cycle (R150: `tcnt` has a value in `0 .. TIMEBASE-1`). -/
def Config.wellFormed (cfg : Config) : Bool :=
  decide (1 ≤ cfg.n) && decide (2 ≤ cfg.c) && decide (cfg.c ≤ 256) && decide (cfg.sb ≤ 8) &&
    decide (1 ≤ cfg.timebase) && decide (cfg.dirForwardLevel.length = cfg.n)

/-- R67: a STEP_REQUEST for a node with `n` axes carries `n` targets. Every other operand's type holds
exactly the values its encoding admits. -/
def Instr.wellFormed (n : Nat) : Instr → Bool
  | .sync => true
  | .vrefExternal => true
  | .enableDrivers _ => true
  | .stepRequest targets _ _ _ _ => decide (targets.length = n)
  | .getPosition => true
  | .getStatus => true
  | .pwmExternal => true

end Sys2Proof
end

