-- ==== Sys2Proof/Decode.lean ====
section
/-! DEFINITION. The payload codec (30_encoding.md R63 to R65), the decoder of a command (R60, R62, R67 to
R69, R72 to R74, R76), the encoder, and the host's table words laid out as a port byte and a payload. -/

namespace Sys2Proof

/-- `P[k]` (00_scope.md R9). The codec checks no bounds; the decoder reads only offsets below the length
it has checked, so the value past the end is never used (log 19). -/
def byteAt (P : List Byte) (k : Nat) : Byte := P.getD k 0

/-- `rd_u16` (R63). -/
def rdU16 (P : List Byte) (k : Nat) : BitVec 16 :=
  BitVec.ofNat 16 ((byteAt P k).toNat + 256 * (byteAt P (k + 1)).toNat)

/-- `rd_u24` (R64), as the 24-bit field it reads. -/
def rdU24 (P : List Byte) (k : Nat) : U24 :=
  BitVec.ofNat 24 ((byteAt P k).toNat + 256 * (byteAt P (k + 1)).toNat + 65536 * (byteAt P (k + 2)).toNat)

/-- `sext_24` (00_scope.md R9): bit 23 decides, and the upper byte is filled with it (R65). -/
def sext24 (v : U24) : Word := v.signExtend 32

/-- `rd_s24` (R65). -/
def rdS24 (P : List Byte) (k : Nat) : Word := sext24 (rdU24 P k)

/-- The bytes `wr_u16` writes at `k` and `k + 1` (R63), least significant first. -/
def wrU16 (v : BitVec 16) : List Byte := [v.extractLsb' 0 8, v.extractLsb' 8 8]

/-- The bytes `wr_u24` writes at `k` to `k + 2` (R64); bits of `v` above bit 23 are dropped. -/
def wrU24 (v : Word) : List Byte := [v.extractLsb' 0 8, v.extractLsb' 8 8, v.extractLsb' 16 8]

/-- The bytes `wr_s24` writes (R65): the low 24 bits of the two's-complement pattern. -/
def wrS24 (v : Word) : List Byte := wrU24 v

/-- Why a port and a payload are no command of this block. -/
inductive DecodeError where
  /-- No port of R62: silently ignored (R72, 44_commands.md R128). -/
  | unknownPort
  /-- Fewer payload bytes than the port's format has: `refuse(short_payload)` (R74). -/
  | shortPayload
  /-- A flag byte of STEP_REQUEST in `2 .. 255`: `refuse(reserved_flag_value)` (R73). -/
  | reservedFlagValue
  deriving DecidableEq, Repr

/-- The payload of STEP_REQUEST, format `S(N)` (R67), checked in the order of R122 and R144: the length,
then the reserved flag values. Bytes beyond the format are not read (R74). -/
def decodeStepRequest (n : Nat) (P : List Byte) : Except DecodeError Instr :=
  if P.length < 3 * n + 6 then .error .shortPayload
  else if 1 < (byteAt P (3 * n + 4)).toNat ∨ 1 < (byteAt P (3 * n + 5)).toNat then .error .reservedFlagValue
  else .ok (.stepRequest ((List.range n).map fun i => rdU24 P (3 * i)) (rdU24 P (3 * n)) (byteAt P (3 * n + 3))
    (byteAt P (3 * n + 4) == 1) (byteAt P (3 * n + 5) == 1))

/-- The payload of ENABLE_DRIVERS, format `B` (R68, R74). -/
def decodeEnableDrivers (P : List Byte) : Except DecodeError Instr :=
  if P.length < 1 then .error .shortPayload else .ok (.enableDrivers (byteAt P 0))

/-- The decoder of a node with `n` axes, total on every port and payload. The port alone selects the
command (R60, R120); the payload of format `E` is not read (R69), nor is that of format `X`, which the spec does not
specify (R60; log 17). -/
def decode (n : Nat) (port : Byte) (P : List Byte) : Except DecodeError Instr :=
  match port.toNat with
  | 8 => .ok .sync
  | 11 => .ok .vrefExternal
  | 12 => decodeEnableDrivers P
  | 13 => decodeStepRequest n P
  | 14 => .ok .getPosition
  | 15 => .ok .getStatus
  | 16 => .ok .pwmExternal
  | _ => .error .unknownPort

/-- A flag bit as its payload byte (R67). -/
def flagByte (b : Bool) : Byte := if b then 1 else 0

/-- The port and the payload of a command, from the same tables (R62, R67 to R69). DESIGN CHOICE (log 17): of the
payloads that ports 11 and 16 may carry, which the spec does not specify, the empty one. -/
def encode : Instr → Byte × List Byte
  | .sync => (8, [])
  | .vrefExternal => (11, [])
  | .enableDrivers b => (12, [b])
  | .stepRequest targets t key abs wfs =>
    (13, (targets.flatMap fun v => wrU24 (v.setWidth 32)) ++ wrU24 (t.setWidth 32) ++
      [key, flagByte abs, flagByte wfs])
  | .getPosition => (14, [])
  | .getStatus => (15, [])
  | .pwmExternal => (16, [])

/-- How many payload bytes the decoder reads for a port's command on a node with `n` axes (R60, R76). DESIGN CHOICE
(log 17): R60 says 'not specified' of format `X`, ports 11 and 16; the model reads none and lets any length stand. -/
def payloadLength (n : Nat) : Instr → Nat
  | .enableDrivers _ => 1
  | .stepRequest _ _ _ _ _ => 3 * n + 6
  | .sync | .vrefExternal | .getPosition | .getStatus | .pwmExternal => 0

/-- Byte `k` of the host's table word: bits `8k+7 .. 8k`, zero above `nbits`. -/
def tableByte (nbits w k : Nat) : Byte := BitVec.ofNat 8 ((w % 2 ^ nbits) >>> (8 * k))

/-- The port of a table word: its first byte (opcode_table.json: `[7:0]` of the port byte). -/
def tablePort (nbits w : Nat) : Byte := tableByte nbits w 0

/-- The payload of a table word, up to the longest format, `3N + 6` bytes (R76). -/
def tablePayload (n nbits w : Nat) : List Byte := (List.range (3 * n + 6)).map fun k => tableByte nbits w (k + 1)

/-- The instruction the decoder of the node of `State.reset` (log 2) reads from a table word. -/
def decodeTableWord (nbits w : Nat) : Option Instr :=
  match decode Config.oneAxis.n (tablePort nbits w) (tablePayload Config.oneAxis.n nbits w) with
  | .ok i => some i
  | .error _ => none

end Sys2Proof
end

