-- ==== Sys2Proof/Machine/Operands.lean ====
section
/-! DEFINITION. Every operand form: the segment a STEP_REQUEST's operands make (30_encoding.md R66, R67), the
delta of an axis (42_segment_loader.md R91), and the payloads of the replies (R70, R71, 44_commands.md R125). -/

namespace Sys2Proof.Machine

/-- `t << SB` on the sign-extended target (R66). -/
def scaleTarget (sb : Nat) (t : U24) : Word := sext24 t <<< sb

/-- The MotionSegment record STEP_REQUEST queues (44_commands.md R122). -/
def segmentOf (sb : Nat) (targets : List U24) (segmentTime : U24) (segmentKey : Byte)
    (absolute waitForSync : Bool) : Slot where
  target := targets.map (scaleTarget sb)
  segmentTime := segmentTime.setWidth 32
  segmentKey := segmentKey
  absolute := absolute
  waitForSync := waitForSync

/-- The delta of axis `i`: the target, or for an absolute segment the target less the position at load time,
wrapping at 32 bits (R90, R91, D11; log 11). -/
def axisDelta (seg : Slot) (i : Nat) (position : Word) : Word :=
  if seg.absolute then seg.target.getD i 0 - position else seg.target.getD i 0

/-- `status(code)`, seven bytes (44_commands.md R125, 30_encoding.md R70). -/
def State.status (code : Byte) (s : State) : List Byte :=
  [code, s.segmentKey, s.timeRemaining.extractLsb' 0 8, s.timeRemaining.extractLsb' 8 8,
    s.timeRemaining.extractLsb' 16 8, s.readPosition, s.writePosition]

/-- The position reply, `wr_s24(Q, 3i, position[i] >>a SB)` for every axis (R71, 44_commands.md R123). -/
def State.positionPayload (s : State) : List Byte :=
  s.axes.flatMap fun a => wrS24 (a.position.sshiftRight s.cfg.sb)

end Sys2Proof.Machine
end

