-- ==== Sys2Proof/Machine/Commands.lean ====
section
/-! DEFINITION. The meaning of every command (44_commands.md R121 to R129). -/

namespace Sys2Proof.Machine

/-- `tcnt <- 0` when `waitingForSync` (R126, 60_exceptions.md R151). -/
def realignTimer (s : State) : State := if s.waitingForSync then s.setTcnt 0 else s

/-- SYNC's scan: the first of the `k` slots after `p` whose `waitForSync` is set (R126). -/
def scanForWaiting (s : State) : Nat → Byte → Option Byte
  | 0, _ => none
  | k + 1, p =>
    let p' := nextIndex s.cfg.c p
    if (s.slotAt p').waitForSync then some p' else scanForWaiting s k p'

/-- The scan from `syncSearchPosition` up to and with slot `writePosition` (R126, 90_conflicts.md C8): a
waiting segment is released and remembered, or everything has been searched (log 15). -/
def releaseOldest (s : State) : State :=
  match scanForWaiting s (distance s.cfg.c s.syncSearchPosition s.writePosition) s.syncSearchPosition with
  | some p => (s.clearWaitForSync p).setSyncSearchPosition p
  | none => s.setSyncSearchPosition s.writePosition

/-- SYNC (R126); on a node without the handler port 8 is ignored (R129, D15; log 16). No reply (D8; log 13). -/
def execSync (s : State) : Host.Outcome State Fault Refusal :=
  if s.cfg.hasSync then .next (releaseOldest (realignTimer s)) else .next s

/-- Port 11, an external service: this block does nothing (R127; log 17). -/
def execVrefExternal (s : State) : Host.Outcome State Fault Refusal := .next s

/-- ENABLE_DRIVERS (R121): zero disables, nonzero enables; an empty reply on port 12. -/
def execEnableDrivers (enable : Byte) (s : State) : Host.Outcome State Fault Refusal :=
  .next ((s.setDriversEnabled (enable != 0)).sendReply 12 [])

/-- `statusCode` of a STEP_REQUEST reply: 1 queued, 0 full (30_encoding.md R70, D7; log 13). -/
def statusCode : EnqueueResult → Byte
  | .ok => 1
  | .full => 0

/-- STEP_REQUEST (R122): enqueue the scaled segment, then the status reply as the enqueue left it (D9; log 13).
A term with another number of targets than axes is none the decoder gives (log 14). -/
def execStepRequest (targets : List U24) (segmentTime : U24) (segmentKey : Byte) (absolute waitForSync : Bool)
    (s : State) : Host.Outcome State Fault Refusal :=
  if targets.length = s.cfg.n then
    let (r, s') := enqueue (segmentOf s.cfg.sb targets segmentTime segmentKey absolute waitForSync) s
    .next (s'.sendReply 13 (s'.status (statusCode r)))
  else .refused .targetCount

/-- GET_POSITION (R123): no state changes. -/
def execGetPosition (s : State) : Host.Outcome State Fault Refusal := .next (s.sendReply 14 s.positionPayload)

/-- GET_STATUS (R124): no state changes. -/
def execGetStatus (s : State) : Host.Outcome State Fault Refusal := .next (s.sendReply 15 (s.status 1))

/-- Port 16, an external service: this block does nothing (R127; log 17). -/
def execPwmExternal (s : State) : Host.Outcome State Fault Refusal := .next s

end Sys2Proof.Machine
end

