-- ==== Sys2Proof/Machine/Dispatch.lean ====
section
/-! DEFINITION. One arm per command (44_commands.md R120). -/

namespace Sys2Proof.Machine

def exec (i : Instr) (s : State) : Host.Outcome State Fault Refusal :=
  match i with
  | .sync => Sys2Proof.Machine.execSync s
  | .vrefExternal => Sys2Proof.Machine.execVrefExternal s
  | .enableDrivers enable => Sys2Proof.Machine.execEnableDrivers enable s
  | .stepRequest targets segmentTime segmentKey absolute waitForSync => Sys2Proof.Machine.execStepRequest targets segmentTime segmentKey absolute waitForSync s
  | .getPosition => Sys2Proof.Machine.execGetPosition s
  | .getStatus => Sys2Proof.Machine.execGetStatus s
  | .pwmExternal => Sys2Proof.Machine.execPwmExternal s

end Sys2Proof.Machine
end

