-- ==== Sys2Proof/Machine/SegmentLoader.lean ====
section
/-! DEFINITION. The segment loader (42_segment_loader.md R90 to R97). -/

namespace Sys2Proof.Machine

/-- One axis of the load (R90): direction, magnitude, count, accumulator; the ledger is only read. -/
def loadAxis (seg : Slot) (i : Nat) (a : Axis) : Axis :=
  let delta := axisDelta seg i a.position
  { a with
    direction := directionOf delta
    targetSteps := magnitudeOf delta
    stepsRemaining := magnitudeOf delta
    accum := 0 }

/-- The register writes of the load, the arming store among them (R90, R93, R94). -/
def armSegment (seg : Slot) (s : State) : State :=
  { s with
    axes := s.axes.mapIdx (loadAxis seg)
    segmentKey := seg.segmentKey
    bresenhamThreshold := seg.segmentTime / 2
    totalTime := seg.segmentTime
    timeRemaining := seg.segmentTime }

/-- `dir[i]` of every axis, driven from the new directions (R90, 10_state.md R25). -/
def driveDir (s : State) : State := s.emit (.dir s.dirLevels)

/-- `loadSegment()` from slot `readPosition` (R90), with the driver wake-up last (R95). -/
def loadSegment (s : State) : State :=
  (driveDir (armSegment (s.slotAt s.readPosition) s)).setDriversEnabled true

end Sys2Proof.Machine
end

