-- ==== Sys2Proof/Machine/StepGenerator.lean ====
section
/-! DEFINITION. The step generator's TICK (43_step_generator.md R100 to R109). -/

namespace Sys2Proof.Machine

/-- `accum[i] + targetSteps[i]`, exact (R105). -/
def accumSum (a : Axis) : Int := a.accum.toInt + (a.targetSteps.toNat : Int)

/-- The signed, strict comparison with the threshold (R102, R105): whether the axis steps. -/
def crosses (threshold : Word) (a : Axis) : Bool := decide ((threshold.toNat : Int) < accumSum a)

/-- The accumulator after the firing, exact: less `totalTime` on a step (R102). -/
def accumNext (threshold totalTime : Word) (a : Axis) : Int :=
  if crosses threshold a then accumSum a - (totalTime.toNat : Int) else accumSum a

/-- Whether the sum or the difference leaves s32 (R105, R108; log 9). -/
def accumOverflows (threshold totalTime : Word) (a : Axis) : Bool :=
  !(fitsS32 (accumSum a)) || !(fitsS32 (accumNext threshold totalTime a))

/-- One axis in a stepping firing (R102); the ledger wraps at 32 bits (R105, D11; log 11). -/
def stepAxis (threshold totalTime : Word) (a : Axis) : Axis :=
  let accum := BitVec.ofInt 32 (accumNext threshold totalTime a)
  if crosses threshold a then
    { a with
      accum := accum
      stepsRemaining := a.stepsRemaining - 1
      position := a.position + a.direction.delta }
  else { a with accum := accum }

/-- A stepping firing that overflows nothing (R101 to R103): countdown, axes, pulse. -/
def stepFiring (s : State) : State :=
  { s with
    timeRemaining := s.timeRemaining - 1
    axes := s.axes.map (stepAxis s.bresenhamThreshold s.totalTime) }.emitPulse
    (s.axes.map (crosses s.bresenhamThreshold))

/-- Part 1 of TICK (R100): nothing when idle (R109); an accumulator overflow ends the run (R108, log 9). -/
def stepPart (s : State) : Host.Outcome State Fault Refusal :=
  if s.timeRemaining = 0 then .next s
  else if s.axes.any (accumOverflows s.bresenhamThreshold s.totalTime) then .fault .accumulatorOverflow
  else .next (stepFiring s)

/-- Part 2 of TICK (R100, R104): at most one load attempt, when no time is left. -/
def loadPart (s : State) : State :=
  if s.timeRemaining = 0 then
    match tryLoadNext s with
    | (.ok, s') => loadSegment s'
    | (.empty, s') => s'
    | (.blocked, s') => s'
  else s

/-- TICK (R100). -/
def tick (s : State) : Host.Outcome State Fault Refusal :=
  match stepPart s with
  | .next s' => .next (loadPart s')
  | .fault r => .fault r
  | .refused r => .refused r

end Sys2Proof.Machine
end

