-- ==== Sys2Proof/Machine/Events.lean ====
section
/-! DEFINITION. What the block does on each thing the outside presents: RESET (70_reset_and_hazards.md R160),
a clk cycle (60_exceptions.md R150), a command (44_commands.md R120). -/

namespace Sys2Proof.Machine

/-- RESET (R160): every register at its reset value, the slots unspecified. The configuration stays (R30), and
what the outside will present next is not the block's to lose (log 18). -/
def resetEvent (s : State) : State := { State.resetOf s.cfg (s.epoch + 1) with inputs := s.inputs }

/-- One clk cycle (R150): at the `TIMEBASE`-th the counter restarts and TICK is performed (log 8). -/
def clkCycle (s : State) : Host.Outcome State Fault Refusal :=
  if s.tcnt + 1 = s.cfg.timebase then tick (s.setTcnt 0) else .next (s.setTcnt (s.tcnt + 1))

/-- One command: decoded and executed, ignored on an unknown port (R128), refused outside the payload
schema (30_encoding.md R73, R74; log 10). -/
def runCommand (port : Byte) (payload : List Byte) (s : State) : Host.Outcome State Fault Refusal :=
  match decode s.cfg.n port payload with
  | .ok i => exec i s
  | .error .unknownPort => .next s
  | .error .shortPayload => .refused .shortPayload
  | .error .reservedFlagValue => .refused .reservedFlagValue

/-- One event as one atomic operation (20_memory.md R45, R50). -/
def runEvent : Event → State → Host.Outcome State Fault Refusal
  | .reset, s => .next (resetEvent s)
  | .clk, s => clkCycle s
  | .command port payload, s => runCommand port payload s

end Sys2Proof.Machine
end

