-- ==== Sys2Proof/Machine/Step.lean ====
section
/-! DEFINITION. One step: one atomic operation of one agent (20_memory.md R45, R50; log 7). -/

namespace Sys2Proof.Machine

/-- The next event is taken and performed (log 5). -/
def step (s : State) : Host.Outcome State Fault Refusal := runEvent s.nextEvent s.takeEvent

/-- The table word's port and payload presented as the very next command: how a command comes to run (log 5). -/
def State.withFetchWord (s : State) (nbits w : Nat) : State :=
  s.present (tablePort nbits w) (tablePayload s.cfg.n nbits w)

end Sys2Proof.Machine
end

