-- ==== Sys2Proof/Safety.lean ====
section
/-! DEFINITION. What a good state and a good run are, in the terms claims use: the invariants of
10_state.md R29, the host contract `K <= T` (70_reset_and_hazards.md R172), runs of TICKs, and what the
outside sees of them. -/

namespace Sys2Proof.Machine

/-- Slot `p` is queued: it lies circularly after `readPosition` and up to `writePosition` (20_memory.md R54). -/
def State.Queued (s : State) (p : Byte) : Prop :=
  p.toNat < s.cfg.c ∧ 1 ≤ distance s.cfg.c s.readPosition p ∧ distance s.cfg.c s.readPosition p ≤ s.occupancy

/-- Slot `p` is the oldest queued segment that still waits (44_commands.md R126 corner case a). -/
def State.OldestWaiting (s : State) (p : Byte) : Prop :=
  s.Queued p ∧ (s.slotAt p).waitForSync = true ∧
    ∀ q, s.Queued q → distance s.cfg.c s.readPosition q < distance s.cfg.c s.readPosition p →
      (s.slotAt q).waitForSync = false

/-- The invariants of every reachable state (R29 items 6 to 10 and the rules they are derived from). -/
structure State.Inv (s : State) : Prop where
  /-- The configuration is one the spec admits (00_scope.md R6). -/
  cfg_wf : s.cfg.wellFormed = true
  /-- One set of registers per axis. -/
  axes_length : s.axes.length = s.cfg.n
  /-- R29 item 6. -/
  read_lt : s.readPosition.toNat < s.cfg.c
  write_lt : s.writePosition.toNat < s.cfg.c
  sync_lt : s.syncSearchPosition.toNat < s.cfg.c
  /-- R29 item 8. -/
  sync_between : distance s.cfg.c s.readPosition s.syncSearchPosition ≤ s.occupancy
  /-- R29 item 9. -/
  searched_released : ∀ p : Byte, p.toNat < s.cfg.c → 1 ≤ distance s.cfg.c s.readPosition p →
    distance s.cfg.c s.readPosition p ≤ distance s.cfg.c s.readPosition s.syncSearchPosition →
    (s.slotAt p).waitForSync = false
  /-- R29 item 10. -/
  time_le : s.timeRemaining.toNat ≤ s.totalTime.toNat
  threshold_half : s.bresenhamThreshold.toNat = s.totalTime.toNat / 2
  /-- R15: a u24. -/
  total_lt : s.totalTime.toNat < 16777216
  /-- R27. -/
  tcnt_lt : s.tcnt < s.cfg.timebase
  /-- R24, R40: the slot RAM keeps its canonical form. -/
  slots_wf : Memory.wf s.cfg.n s.cfg.c s.slots = true
  /-- 41_motion_buffer.md R82 corner case c. -/
  waiting_nonempty : s.waitingForSync = true → s.readPosition ≠ s.writePosition
  /-- 60_exceptions.md R151: the generator is idle whenever `waitingForSync = 1`. -/
  waiting_idle : s.waitingForSync = true → s.timeRemaining = 0

/-- One axis of a running segment of time `T` inside the host contract, with `left` stepping firings still to
come (R29 item 11, 43_step_generator.md R106, R107): `K <= T`, the accumulator is what the firings and the
steps so far make it, and it lies in R107's range. -/
def Axis.InContract (T left : Nat) (a : Axis) : Prop :=
  a.targetSteps.toNat ≤ T ∧ a.stepsRemaining.toNat ≤ a.targetSteps.toNat ∧
    a.accum.toInt = ((T : Int) - left) * a.targetSteps.toNat -
      ((a.targetSteps.toNat : Int) - a.stepsRemaining.toNat) * T ∧
    (1 ≤ T → (T : Int) / 2 + 1 - T ≤ a.accum.toInt) ∧ a.accum.toInt ≤ (T : Int) / 2

/-- Every axis of the active segment keeps the host contract (70_reset_and_hazards.md R172). -/
def State.InContract (s : State) : Prop :=
  ∀ a ∈ s.axes, a.InContract s.totalTime.toNat s.timeRemaining.toNat

/-- The oldest queued segment may be loaded now and keeps the host contract on every axis from the present
positions (R172, 42_segment_loader.md R91). -/
def State.HeadInContract (s : State) : Prop :=
  ∀ i a, s.axes[i]? = some a →
    (magnitudeOf (axisDelta (s.slotAt s.headIndex) i a.position)).toNat ≤ (s.slotAt s.headIndex).segmentTime.toNat

/-- `n` TICKs in a row (30_encoding.md R75, `TICK*n`). TICK only appends to `out`, so the outputs of all of them
stand there in order. -/
def ticks : Nat → State → Host.Outcome State Fault Refusal
  | 0, s => .next s
  | n + 1, s =>
    match tick s with
    | .next s' => ticks n s'
    | .fault r => .fault r
    | .refused r => .refused r

/-- Whether an output pulses axis `i`. -/
def Output.pulses (i : Nat) : Output → Bool
  | .pulse mask => mask.getD i false
  | .dir _ => false
  | .enableN _ => false
  | .reply _ _ => false

/-- How many step pulses on axis `i` stand in `out`. -/
def State.pulseCount (i : Nat) (s : State) : Nat := s.out.countP (Output.pulses i)

/-- `s(n)` of 43_step_generator.md R106: the steps emitted in the first `n` stepping firings. -/
def stepsAfter (K T n : Nat) : Nat := if n * K ≤ T / 2 then 0 else (n * K - T / 2 + (T - 1)) / T

/-- `n_j` of R106: the stepping firing, counted from 1, that emits step `j`. -/
def firingOfStep (K T j : Nat) : Nat := (T / 2 + (j - 1) * T) / K + 1

/-- A next state is answered: the operation completes. -/
def Completes (o : Host.Outcome State Fault Refusal) : Prop := ∃ s', o = .next s'

/-- States a node reaches from RESET by its own steps and by what the outside presents. -/
inductive Reachable (cfg : Config) : State → Prop where
  | reset (epoch : Nat) : Reachable cfg (State.resetOf cfg epoch)
  | step {s s' : State} : Reachable cfg s → Machine.step s = .next s' → Reachable cfg s'
  | present {s : State} (inputs : List Event) : Reachable cfg s → Reachable cfg { s with inputs := inputs }

end Sys2Proof.Machine
end

