-- ==== Sys2Proof/Certificates/Slice0/Obligations.lean ====
section
/-! DEFINITION. The statements for the provers. Every statement is about every state, so about every
configuration (log 1). -/

open Sys2Proof Sys2Proof.Machine

/-! ### Encoding -/

/-- Words written out from 30_encoding.md section 8 and 95_test_vectors.md section 2.7, on a 1-axis and a
3-axis node. -/
def Obligations.SpecWordsDecode : Prop :=
  decode 1 13 [0xE8, 0x03, 0x00, 0x10, 0x27, 0x00, 0x07, 0x00, 0x00] =
      .ok (.stepRequest [1000] 10000 7 false false) ∧
    decode 3 13 [0x2C, 0x01, 0x00, 0x38, 0xFF, 0xFF, 0x64, 0x00, 0x00, 0xB0, 0x04, 0x00, 0x09, 0x00, 0x01] =
      .ok (.stepRequest [300, -200, 100] 1200 9 false true) ∧
    decode 1 12 [0x00, 0x55] = .ok (.enableDrivers 0) ∧ decode 1 14 [] = .ok .getPosition ∧
    decode 1 15 [] = .ok .getStatus ∧ decode 1 8 [] = .ok .sync ∧ decode 1 11 [] = .ok .vrefExternal ∧
    decode 1 16 [] = .ok .pwmExternal

/-- R60, R62, R67 to R69: every well-formed command, with every operand value, is what its own words decode to,
and bytes beyond the format change nothing (R74). (That the empty payload stands for ports 11 and 16, whose length
the spec leaves open, is the model's choice, log 17.) -/
def Obligations.DecodeOfEncode : Prop :=
  ∀ (n : Nat) (i : Instr) (extra : List Byte), i.wellFormed n = true →
    decode n (encode i).1 ((encode i).2 ++ extra) = .ok i

/-- R60, R74, R76: what decodes is well-formed, and its encoding is the port and the payload's first
`payloadLength` bytes, for a payload length that the port and `N` alone give (0 for ports 11 and 16, whose length the
spec leaves open: the model's choice, log 17). -/
def Obligations.EncodeOfDecode : Prop :=
  ∀ (n : Nat) (port : Byte) (P : List Byte) (i : Instr), decode n port P = .ok i →
    i.wellFormed n = true ∧ (encode i).1 = port ∧ (encode i).2 = P.take (payloadLength n i) ∧
      payloadLength n i ≤ P.length

/-- R72 to R74: exactly which ports and payloads are no command, and why (D13 and D14 are the spec's own
decisions, log 10). -/
def Obligations.DecodeRejectsExactly : Prop :=
  ∀ (n : Nat) (port : Byte) (P : List Byte),
    (decode n port P = .error .unknownPort ↔ port.toNat ∉ [8, 11, 12, 13, 14, 15, 16]) ∧
    (decode n port P = .error .shortPayload ↔
      (port = 12 ∧ P.length < 1) ∨ (port = 13 ∧ P.length < 3 * n + 6)) ∧
    (decode n port P = .error .reservedFlagValue ↔
      port = 13 ∧ 3 * n + 6 ≤ P.length ∧ ¬ ((byteAt P (3 * n + 4)).toNat ≤ 1 ∧ (byteAt P (3 * n + 5)).toNat ≤ 1))

/-- R63, R64: the unsigned codec, reading and writing, least significant byte first; bits above bit 23 are dropped. -/
def Obligations.UnsignedCodecIsLittleEndian : Prop :=
  (∀ (P : List Byte) (k : Nat),
    (rdU16 P k).toNat = (byteAt P k).toNat + 256 * (byteAt P (k + 1)).toNat ∧
    (rdU24 P k).toNat =
      (byteAt P k).toNat + 256 * (byteAt P (k + 1)).toNat + 65536 * (byteAt P (k + 2)).toNat) ∧
  (∀ v : BitVec 16, (wrU16 v).map BitVec.toNat = [v.toNat % 256, v.toNat / 256]) ∧
  (∀ v : Word, (wrU24 v).map BitVec.toNat =
    [v.toNat % 256, v.toNat / 256 % 256, v.toNat / 65536 % 256])

/-- R65: `rd_s24` is the sign extension of `rd_u24`; reading what was written gives the value back inside
`-2^23 .. 2^23-1`, and the written bytes are the value modulo `2^24` always. -/
def Obligations.SignedCodecRoundTrip : Prop :=
  (∀ (P : List Byte) (k : Nat),
    (rdS24 P k).toInt = (if (rdU24 P k).getLsbD 23 then ((rdU24 P k).toNat : Int) - 16777216 else (rdU24 P k).toNat) ∧
    rdS24 P k =
      (if (rdU24 P k).getLsbD 23 then (rdU24 P k).setWidth 32 ||| 0xFF000000 else (rdU24 P k).setWidth 32) ∧
    -8388608 ≤ (rdS24 P k).toInt ∧ (rdS24 P k).toInt ≤ 8388607) ∧
  (∀ v : Word,
    (wrS24 v).map BitVec.toNat = [v.toNat % 256, v.toNat / 256 % 256, v.toNat / 65536 % 256] ∧
    ((rdU24 (wrS24 v) 0).toNat : Int) = v.toInt % 16777216 ∧
    (-8388608 ≤ v.toInt → v.toInt ≤ 8388607 → rdS24 (wrS24 v) 0 = v) ∧
    (rdS24 (wrS24 v) 0 = v → -8388608 ≤ v.toInt ∧ v.toInt ≤ 8388607)) ∧
  wrS24 1000 = [0xE8, 0x03, 0x00] ∧ wrS24 (-1) = [0xFF, 0xFF, 0xFF] ∧ wrS24 (-300) = [0xD4, 0xFE, 0xFF] ∧
  wrS24 (-8388608) = [0x00, 0x00, 0x80] ∧ wrS24 8388607 = [0xFF, 0xFF, 0x7F]

/-- R66: for every admissible `SB` the shift of the sign-extended target is the exact multiplication. -/
def Obligations.TargetScalingIsExact : Prop :=
  ∀ (sb : Nat) (t : U24), sb ≤ 8 → (scaleTarget sb t).toInt = t.toInt * 2 ^ sb

/-! ### The motion buffer -/

/-- R81: on `full` nothing is written; otherwise exactly slot `(writePosition + 1) mod C` is, in full, and
`writePosition` publishes it. -/
def Obligations.EnqueueWritesOneSlotOrNothing : Prop :=
  ∀ (seg : Slot) (s : State),
    ((enqueue seg s).1 = .full ↔ nextIndex s.cfg.c s.writePosition = s.readPosition) ∧
    ((enqueue seg s).1 = .full → (enqueue seg s).2 = s) ∧
    ((enqueue seg s).1 = .ok → ∃ t, (enqueue seg s).2 = t ∧
      t = { s with slots := t.slots, writePosition := nextIndex s.cfg.c s.writePosition } ∧
      t.slotAt (nextIndex s.cfg.c s.writePosition) = seg ∧
      ∀ p, p ≠ nextIndex s.cfg.c s.writePosition → t.slotAt p = s.slotAt p)

/-- 20_memory.md R54, 41_motion_buffer.md R81 corner case d: the slot written is no queued slot and not the slot the
loader copies from; afterwards it is the newest queued one. -/
def Obligations.EnqueueSparesLiveSlots : Prop :=
  ∀ (seg : Slot) (s : State), s.Inv → (enqueue seg s).1 = .ok →
    ¬ s.Queued (nextIndex s.cfg.c s.writePosition) ∧ nextIndex s.cfg.c s.writePosition ≠ s.readPosition ∧
    (enqueue seg s).2.occupancy = s.occupancy + 1 ∧
    ∀ p, (enqueue seg s).2.Queued p ↔ s.Queued p ∨ p = nextIndex s.cfg.c s.writePosition

/-- 41_motion_buffer.md R80, R81 corner case b: at most `C - 1` segments are queued, `full` is exactly `C - 1` of
them and `empty` exactly none. -/
def Obligations.FullnessIsOccupancy : Prop :=
  ∀ s : State, s.Inv →
    s.occupancy ≤ s.cfg.c - 1 ∧ (s.bufferFull = true ↔ s.occupancy = s.cfg.c - 1) ∧
      (s.bufferEmpty = true ↔ s.occupancy = 0)

/-- R82: the three outcomes of tryLoadNext and everything each of them writes. -/
def Obligations.TryLoadNextOutcomes : Prop :=
  ∀ s : State,
    (s.readPosition = s.writePosition → tryLoadNext s = (.empty, s)) ∧
    (s.readPosition ≠ s.writePosition → (s.slotAt (nextIndex s.cfg.c s.readPosition)).waitForSync = true →
      tryLoadNext s = (.blocked, { s with waitingForSync := true })) ∧
    (s.readPosition ≠ s.writePosition → (s.slotAt (nextIndex s.cfg.c s.readPosition)).waitForSync = false →
      tryLoadNext s = (.ok, { s with
        waitingForSync := false
        syncSearchPosition :=
          if s.syncSearchPosition = s.readPosition then nextIndex s.cfg.c s.readPosition else s.syncSearchPosition
        readPosition := nextIndex s.cfg.c s.readPosition }))

/-- 41_motion_buffer.md R83, 20_memory.md R52, 10_state.md R29 item 2: whatever one step does short of RESET, a
queued segment stays queued with its values, until it is the one loaded, and then `readPosition` has advanced
onto it by one. Only a command of port 8 on a node with the handler may clear its `waitForSync`, and nothing
sets it. -/
def Obligations.QueuedSegmentsSurviveAStep : Prop :=
  ∀ (s t : State) (p : Byte), s.Inv → s.Queued p → s.nextEvent ≠ .reset → step s = .next t →
    (t.slotAt p = s.slotAt p ∨
      ((s.slotAt p).waitForSync = true ∧ t.slotAt p = { s.slotAt p with waitForSync := false } ∧
        s.cfg.hasSync = true ∧ ∃ P, s.nextEvent = .command 8 P)) ∧
    (t.Queued p ∨ (t.readPosition = p ∧ p = nextIndex s.cfg.c s.readPosition ∧ (s.slotAt p).waitForSync = false ∧
      t.slotAt p = s.slotAt p))

/-! ### The segment loader -/

/-- 42_segment_loader.md R90 to R93, 10_state.md R25: every register and output a load writes and all it leaves. A
negative delta drives `dir[i]` to the complement of the forward level, any other to that level. (A zero delta is
forward, the level is a parameter and the subtraction wraps: D5, D6, D11, the spec's own decisions, logs 11 and
12.) -/
def Obligations.LoadSegmentEffect : Prop :=
  ∀ s : State, ∃ t seg levels, loadSegment s = t ∧ seg = s.slotAt s.readPosition ∧
    t.segmentKey = seg.segmentKey ∧ t.totalTime = seg.segmentTime ∧ t.timeRemaining = seg.segmentTime ∧
    t.bresenhamThreshold.toNat = seg.segmentTime.toNat / 2 ∧ t.driversEnabled = true ∧
    t.axes.length = s.axes.length ∧ levels.length = s.axes.length ∧ t.dirLevels = levels ∧
    (∀ (i : Nat) (a b : Axis), s.axes[i]? = some a → t.axes[i]? = some b → ∃ delta : Int,
      delta = (if seg.absolute then ((seg.target.getD i 0).toInt - a.position.toInt).bmod 4294967296
        else (seg.target.getD i 0).toInt) ∧
      (b.direction = .backward ↔ delta < 0) ∧
      levels[i]? = some (if delta < 0 then !(s.cfg.dirForwardLevel.getD i true) else s.cfg.dirForwardLevel.getD i true) ∧
      b.targetSteps.toNat = delta.natAbs ∧
      b.stepsRemaining = b.targetSteps ∧ b.accum = 0 ∧ b.position = a.position) ∧
    t = { s with
      axes := t.axes
      segmentKey := t.segmentKey
      bresenhamThreshold := t.bresenhamThreshold
      totalTime := t.totalTime
      timeRemaining := t.timeRemaining
      driversEnabled := t.driversEnabled
      out := s.out ++ [.dir levels, .enableN false] }

/-- R95: a TICK whose tryLoadNext returns `ok` enables the drivers, any other leaves them as they are. -/
def Obligations.EveryLoadWakesTheDrivers : Prop :=
  ∀ s t u : State, stepPart s = .next t → tick s = .next u →
    (t.timeRemaining = 0 → (tryLoadNext t).1 = .ok → u.driversEnabled = true ∧ u.enableN = false) ∧
    (¬ (t.timeRemaining = 0 ∧ (tryLoadNext t).1 = .ok) → u.driversEnabled = s.driversEnabled)

/-- R97: a zero-time segment is loaded in one TICK, steps nothing and leaves the generator idle. -/
def Obligations.ZeroTimeSegmentOnlyLoads : Prop :=
  ∀ s : State, s.timeRemaining = 0 → s.readPosition ≠ s.writePosition →
    (s.slotAt s.headIndex).waitForSync = false → (s.slotAt s.headIndex).segmentTime = 0 →
    ∃ t, tick s = .next t ∧ t.timeRemaining = 0 ∧ t.readPosition = s.headIndex ∧
      t.segmentKey = (s.slotAt s.headIndex).segmentKey ∧ t.driversEnabled = true ∧
      t.axes.map Axis.position = s.axes.map Axis.position ∧ ∀ i, t.pulseCount i = s.pulseCount i

/-! ### The step generator -/

/-- R101: a segment with `T` firings to come has exactly `T` of them, and `timeRemaining` after the `n`-th is `T - n`. -/
def Obligations.TimeCountdown : Prop :=
  ∀ (s t : State) (n : Nat), n < s.timeRemaining.toNat → ticks n s = .next t →
    t.timeRemaining.toNat = s.timeRemaining.toNat - n ∧
    (n + 1 = s.timeRemaining.toNat → ∀ u, stepPart t = .next u → u.timeRemaining = 0 ∧ stepPart u = .next u)

/-- R101 to R103, R105: a stepping firing, in exact integers. Each axis adds `targetSteps`, compares strictly and
signed, and steps at most once; nothing else of the state changes, and when it is not the segment's last it is
all of TICK. (That the ledger wraps at 32 bits is the spec's own decision D11, log 11.) -/
def Obligations.SteppingFiringEffect : Prop :=
  ∀ s : State, 1 ≤ s.timeRemaining.toNat →
    (∀ a ∈ s.axes, a.accum.toInt + a.targetSteps.toNat ≤ 2147483647 ∧
      ((s.bresenhamThreshold.toNat : Int) < a.accum.toInt + a.targetSteps.toNat →
        -2147483648 ≤ a.accum.toInt + a.targetSteps.toNat - s.totalTime.toNat)) →
    ∃ (t : State) (mask : List Bool), stepPart s = .next t ∧ (1 < s.timeRemaining.toNat → tick s = .next t) ∧
      t.timeRemaining.toNat = s.timeRemaining.toNat - 1 ∧
      t.axes.length = s.axes.length ∧ mask.length = s.axes.length ∧
      (∀ (i : Nat) (a b : Axis) (m : Bool), s.axes[i]? = some a → t.axes[i]? = some b → mask[i]? = some m →
        (m = true ↔ (s.bresenhamThreshold.toNat : Int) < a.accum.toInt + a.targetSteps.toNat) ∧
        b.accum.toInt = a.accum.toInt + a.targetSteps.toNat - (if m then (s.totalTime.toNat : Int) else 0) ∧
        b.stepsRemaining = a.stepsRemaining - (if m then 1 else 0) ∧
        b.position.toInt = (a.position.toInt +
          (if m then (if a.direction = .forward then 1 else -1) else 0)).bmod 4294967296 ∧
        b.targetSteps = a.targetSteps ∧ b.direction = a.direction) ∧
      t = { s with
        timeRemaining := t.timeRemaining
        axes := t.axes
        out := s.out ++ (if true ∈ mask then [.pulse mask] else []) }

/-- R109: a TICK that enters idle changes nothing by stepping; with an empty buffer it changes nothing at all. -/
def Obligations.IdleTickChangesNothing : Prop :=
  ∀ s : State, s.timeRemaining = 0 →
    stepPart s = .next s ∧ (s.readPosition = s.writePosition → tick s = .next s) ∧
    ((tryLoadNext s).1 ≠ .ok → ∃ b, tick s = .next { s with waitingForSync := b })

/-- R108, D12: TICK stops exactly when a running segment's accumulator leaves s32, and answers a next state
otherwise (the fault is the spec's own decision, log 9). -/
def Obligations.TickStopsOnlyOnOverflow : Prop :=
  ∀ s : State,
    (tick s = .fault .accumulatorOverflow ↔ s.timeRemaining ≠ 0 ∧ ∃ a ∈ s.axes,
      2147483647 < a.accum.toInt + a.targetSteps.toNat ∨
      ((s.bresenhamThreshold.toNat : Int) < a.accum.toInt + a.targetSteps.toNat ∧
        a.accum.toInt + a.targetSteps.toNat - s.totalTime.toNat < -2147483648)) ∧
    (tick s ≠ .fault .accumulatorOverflow → ∃ t, tick s = .next t)

/-- R106: the closed form of `n` stepping firings of one axis from its load, `s(n)` steps and the accumulator
`n*K - s(n)*T`, for every `K <= T`, and after `T` of them exactly `K` steps. -/
def Obligations.StepCountClosedForm : Prop :=
  ∀ (threshold totalTime : Word) (a : Axis) (n : Nat), a.accum = 0 → 1 ≤ totalTime.toNat →
    totalTime.toNat < 16777216 → threshold.toNat = totalTime.toNat / 2 → a.targetSteps.toNat ≤ totalTime.toNat →
    n ≤ totalTime.toNat →
    ∃ b, (stepAxis threshold totalTime)^[n] a = b ∧
      b.accum.toInt = (n * a.targetSteps.toNat : Int) -
        stepsAfter a.targetSteps.toNat totalTime.toNat n * totalTime.toNat ∧
      b.position = a.position + BitVec.ofNat 32 (stepsAfter a.targetSteps.toNat totalTime.toNat n) * a.direction.delta ∧
      b.stepsRemaining = a.stepsRemaining - BitVec.ofNat 32 (stepsAfter a.targetSteps.toNat totalTime.toNat n) ∧
      b.targetSteps = a.targetSteps ∧ b.direction = a.direction ∧
      stepsAfter a.targetSteps.toNat totalTime.toNat totalTime.toNat = a.targetSteps.toNat

/-- R106: the `j`-th step is emitted in stepping firing `floor((th + (j-1)*T) / K) + 1`, and in no other firing is
there one. -/
def Obligations.StepFiringsAreEvenlySpaced : Prop :=
  ∀ (threshold totalTime : Word) (a : Axis) (m : Nat), a.accum = 0 → 1 ≤ totalTime.toNat →
    totalTime.toNat < 16777216 → threshold.toNat = totalTime.toNat / 2 → a.targetSteps.toNat ≤ totalTime.toNat →
    1 ≤ m → m ≤ totalTime.toNat →
    (crosses threshold ((stepAxis threshold totalTime)^[m - 1] a) = true ↔
      ∃ j, 1 ≤ j ∧ j ≤ a.targetSteps.toNat ∧ m = firingOfStep a.targetSteps.toNat totalTime.toNat j)

/-- R108: outside the contract, `K > T`, every firing steps as long as the accumulator stays an s32, which after `n`
firings is `n*(K - T)`. -/
def Obligations.EveryFiringStepsOutsideTheContract : Prop :=
  ∀ (threshold totalTime : Word) (a : Axis) (n : Nat), a.accum = 0 → threshold.toNat = totalTime.toNat / 2 →
    totalTime.toNat < a.targetSteps.toNat →
    n * (a.targetSteps.toNat - totalTime.toNat) + totalTime.toNat ≤ 2147483647 →
    (stepAxis threshold totalTime)^[n] a =
      { a with
        accum := BitVec.ofNat 32 (n * (a.targetSteps.toNat - totalTime.toNat))
        stepsRemaining := a.stepsRemaining - BitVec.ofNat 32 n
        position := a.position + BitVec.ofNat 32 n * a.direction.delta } ∧
    ∀ m, m < n → accumOverflows threshold totalTime ((stepAxis threshold totalTime)^[m] a) = false

/-- R107, R29 item 11: inside the host contract a TICK's stepping part never overflows and keeps every accumulator
in its range. -/
def Obligations.SteppingKeepsTheContract : Prop :=
  ∀ s : State, s.Inv → s.InContract → s.timeRemaining ≠ 0 →
    ∃ t, stepPart s = .next t ∧ t.InContract ∧ t.timeRemaining.toNat + 1 = s.timeRemaining.toNat

/-- R107, R172: a load of a segment with `K <= T` on every axis starts inside the host contract, and a TICK from a
state inside it, with a head inside it at load time, completes inside it. -/
def Obligations.TickStaysInTheContract : Prop :=
  ∀ s t : State, s.Inv → s.InContract → stepPart s = .next t →
    (t.timeRemaining = 0 → (tryLoadNext t).1 = .ok → t.HeadInContract) →
    ∃ u, tick s = .next u ∧ u.InContract

/-- R110: what a TICK makes of one axis does not depend on the other axes. -/
def Obligations.AxesAreIndependent : Prop :=
  ∀ (s s' t t' : State) (i : Nat) (a : Axis), tick s = .next t → tick s' = .next t' →
    s' = { s with axes := s'.axes, out := s'.out } → s.axes[i]? = some a → s'.axes[i]? = some a →
    t.axes[i]? = t'.axes[i]?

/-- R23, R102, R112, R29 item 4: over a TICK an axis emits at most one pulse, and its ledger moves by its direction
exactly as often as it pulses. -/
def Obligations.LedgerMovesOncePerPulse : Prop :=
  ∀ (s t : State) (i : Nat) (a b : Axis), tick s = .next t → s.axes[i]? = some a → t.axes[i]? = some b →
    (t.pulseCount i = s.pulseCount i ∧ b.position = a.position) ∨
      (t.pulseCount i = s.pulseCount i + 1 ∧ b.position = a.position + a.direction.delta ∧ s.timeRemaining ≠ 0)

/-- R106, R112, R98, R91: a whole move. From idle, with a queued segment of time `T` at the head that does not wait and
keeps `K <= T` on every axis, `1 + T` TICKs complete; each axis has then pulsed exactly `K` times and moved by the
target if the segment is relative, onto the target if it is absolute. -/
def Obligations.SegmentMovesExactly : Prop :=
  ∀ (s : State) (seg : Slot), s.Inv → s.timeRemaining = 0 → s.readPosition ≠ s.writePosition →
    seg = s.slotAt s.headIndex → seg.waitForSync = false → s.HeadInContract →
    ∃ t, ticks (1 + seg.segmentTime.toNat) s = .next t ∧ t.axes.length = s.axes.length ∧
      ∀ (i : Nat) (a b : Axis), s.axes[i]? = some a → t.axes[i]? = some b →
        t.pulseCount i = s.pulseCount i + (magnitudeOf (axisDelta seg i a.position)).toNat ∧
        b.position = (if seg.absolute then seg.target.getD i 0 else a.position + seg.target.getD i 0)

/-- R98: the loader as a state machine, by `timeRemaining` at the exit of TICK; on `ok` its action is `loadSegment`
(LoadSegmentEffect), inside the contract or not. -/
def Obligations.LoaderStateMachine : Prop :=
  ∀ s t u : State, stepPart s = .next t → tick s = .next u →
    (1 < s.timeRemaining.toNat → u.timeRemaining.toNat = s.timeRemaining.toNat - 1 ∧ u = t) ∧
    (s.timeRemaining.toNat ≤ 1 → t.timeRemaining = 0 ∧
      ((tryLoadNext t).1 = .empty → u = t) ∧
      ((tryLoadNext t).1 = .blocked → u = { t with waitingForSync := true }) ∧
      ((tryLoadNext t).1 = .ok → u = loadSegment (tryLoadNext t).2 ∧
        u.timeRemaining = (t.slotAt t.headIndex).segmentTime ∧
        u.readPosition = t.headIndex ∧ u.segmentKey = (t.slotAt t.headIndex).segmentKey))

/-- R103, 70_reset_and_hazards.md R177: in one TICK the step pulse, of all marked axes together and whatever the drivers
are, comes before the `dir` outputs change; with no axis marked no step output changes. -/
def Obligations.PulseComesBeforeDir : Prop :=
  ∀ s u : State, tick s = .next u → ∃ pulsed loaded : List Output, u.out = s.out ++ pulsed ++ loaded ∧
    (pulsed = if s.timeRemaining ≠ 0 ∧ true ∈ s.axes.map (crosses s.bresenhamThreshold) then
      [.pulse (s.axes.map (crosses s.bresenhamThreshold))] else []) ∧
    ((loaded = [] ∧ u.readPosition = s.readPosition ∧ u.dirLevels = s.dirLevels) ∨
      (loaded = [.dir u.dirLevels, .enableN false] ∧ u.readPosition = s.headIndex))

/-- 70_reset_and_hazards.md R179: whether the drivers are enabled changes nothing a TICK does but the enable itself. -/
def Obligations.DriversDoNotGateStepping : Prop :=
  ∀ (s : State) (b : Bool),
    (∀ t, tick s = .next t → ∃ b', tick { s with driversEnabled := b } = .next { t with driversEnabled := b' }) ∧
    (∀ r, tick s = .fault r → tick { s with driversEnabled := b } = .fault r)

/-- 41_motion_buffer.md R84, 60_exceptions.md R148: a waiting head, or an empty buffer, holds an idle generator for any
number of TICKs; nothing but `waitingForSync` changes. -/
def Obligations.TicksNeverLiftAStall : Prop :=
  ∀ (n : Nat) (s : State), s.timeRemaining = 0 →
    (s.readPosition = s.writePosition → ticks n s = .next s) ∧
    (s.readPosition ≠ s.writePosition → (s.slotAt s.headIndex).waitForSync = true → 1 ≤ n →
      ticks n s = .next { s with waitingForSync := true })

/-! ### Commands -/

/-- R121: all of ENABLE_DRIVERS, which completes from every state (the reply's port is D8, log 13). -/
def Obligations.EnableDriversEffect : Prop :=
  ∀ (b : Byte) (s : State), ∃ t, exec (.enableDrivers b) s = .next t ∧
    (b = 0 → t = { s with driversEnabled := false, out := s.out ++ [.enableN true, .reply 12 []] }) ∧
    (b ≠ 0 → t = { s with driversEnabled := true, out := s.out ++ [.enableN false, .reply 12 []] })

/-- R122: all of STEP_REQUEST, which completes from every state for a term with one target per axis: the segment in the
published slot, scaled exactly, or on `full` nothing but the reply, which is the status after the enqueue (D7, D8,
D9, log 13). -/
def Obligations.StepRequestEffect : Prop :=
  ∀ (targets : List U24) (time : U24) (key : Byte) (abs wfs : Bool) (s : State), targets.length = s.cfg.n →
    ∃ t code, exec (.stepRequest targets time key abs wfs) s = .next t ∧
      t = { s with
        slots := t.slots
        writePosition := t.writePosition
        out := s.out ++ [.reply 13 [code, s.segmentKey, BitVec.ofNat 8 s.timeRemaining.toNat,
          BitVec.ofNat 8 (s.timeRemaining.toNat / 256), BitVec.ofNat 8 (s.timeRemaining.toNat / 65536),
          s.readPosition, t.writePosition]] } ∧
      (s.bufferFull = true → code = 0 ∧ t.slots = s.slots ∧ t.writePosition = s.writePosition) ∧
      (s.bufferFull = false → code = 1 ∧ t.writePosition = nextIndex s.cfg.c s.writePosition ∧
        t.slotAt t.writePosition =
          { target := targets.map fun v => BitVec.ofInt 32 (v.toInt * 2 ^ s.cfg.sb)
            segmentTime := BitVec.ofNat 32 time.toNat
            segmentKey := key
            absolute := abs
            waitForSync := wfs } ∧
        ∀ p, p ≠ t.writePosition → t.slotAt p = s.slotAt p)

/-- R122: a term with another number of targets than axes is none the decoder gives, and STEP_REQUEST stops on it by
name (log 14). -/
def Obligations.StepRequestStopsOnIllFormedTerms : Prop :=
  ∀ (targets : List U24) (time : U24) (key : Byte) (abs wfs : Bool) (s : State), targets.length ≠ s.cfg.n →
    exec (.stepRequest targets time key abs wfs) s = .refused .targetCount ∧
    ∀ port P, decode s.cfg.n port P ≠ .ok (.stepRequest targets time key abs wfs)

/-- R123, 30_encoding.md R71: all of GET_POSITION, which completes from every state and changes none: `3N` bytes, at
`3i` the floor of the position by `2^SB`, exact when it is an s24 and modulo `2^24` always (D8, D10, log 13). -/
def Obligations.GetPositionEffect : Prop :=
  ∀ s : State, ∃ Q, exec .getPosition s = .next { s with out := s.out ++ [.reply 14 Q] } ∧
    Q.length = 3 * s.axes.length ∧
    ∀ (i : Nat) (a : Axis), s.axes[i]? = some a →
      ((rdU24 Q (3 * i)).toNat : Int) = a.position.toInt / 2 ^ s.cfg.sb % 16777216 ∧
      (-8388608 ≤ a.position.toInt / 2 ^ s.cfg.sb → a.position.toInt / 2 ^ s.cfg.sb ≤ 8388607 →
        (rdS24 Q (3 * i)).toInt = a.position.toInt / 2 ^ s.cfg.sb)

/-- R124, R125, 30_encoding.md R70: all of GET_STATUS, which completes from every state and changes none (the reply's port
is D8, log 13). -/
def Obligations.GetStatusEffect : Prop :=
  ∀ s : State, ∃ Q, exec .getStatus s = .next { s with out := s.out ++ [.reply 15 Q] } ∧ Q.length = 7 ∧
    Q[0]? = some 1 ∧ Q[1]? = some s.segmentKey ∧ (rdU24 Q 2).toNat = s.timeRemaining.toNat % 16777216 ∧
    Q[5]? = some s.readPosition ∧ Q[6]? = some s.writePosition

/-- R126: on a node with the handler SYNC releases the oldest queued segment that still waits,
and remembers it; with none waiting it has searched up to `writePosition`; the timer restarts exactly when
`waitingForSync`. No reply (D8, log 13). -/
def Obligations.SyncReleasesTheOldestWaiting : Prop :=
  ∀ s : State, s.Inv → s.cfg.hasSync = true → ∃ t, exec .sync s = .next t ∧
    t = { s with
      tcnt := if s.waitingForSync then 0 else s.tcnt
      slots := t.slots
      syncSearchPosition := t.syncSearchPosition } ∧
    (∀ p, s.OldestWaiting p → t.syncSearchPosition = p ∧
      t.slotAt p = { s.slotAt p with waitForSync := false } ∧ ∀ q, q ≠ p → t.slotAt q = s.slotAt q) ∧
    ((∀ p, ¬ s.OldestWaiting p) → t.syncSearchPosition = s.writePosition ∧ t.slots = s.slots)

/-- R126, R129: SYNC completes from every state, and does nothing on a node without the handler (D15, log 16). That it
completes with an index at or above `C` too, where the source's loop would not end, is the model's choice, log 15;
no reachable state has such an index. -/
def Obligations.SyncCompletesEverywhere : Prop :=
  ∀ s : State, (∃ t, exec .sync s = .next t) ∧ (s.cfg.hasSync = false → exec .sync s = .next s)

/-- R127: the external ports complete from every state and change nothing of this block. -/
def Obligations.ExternalPortsChangeNothing : Prop :=
  ∀ s : State, exec .vrefExternal s = .next s ∧ exec .pwmExternal s = .next s

/-- R128, R72: a command on any port not named in R120 leaves everything as it was, and there is no reply. -/
def Obligations.UnknownPortsAreIgnored : Prop :=
  ∀ (s : State) (port : Byte) (P : List Byte) (rest : List Event), s.inputs = .command port P :: rest →
    port.toNat ∉ [8, 11, 12, 13, 14, 15, 16] → step s = .next { s with inputs := rest, out := [] }

/-- 30_encoding.md R73, R74: a short payload and a reserved flag value stop by name, and nothing else a command can hold
stops a step (D13, D14, log 10). That SYNC does not stop one with an index at or above `C` either, where the
source's loop would not end, is the model's choice, log 15; no reachable state has such an index. -/
def Obligations.CommandsStopOnlyOutsideTheSchema : Prop :=
  ∀ (s : State) (port : Byte) (P : List Byte) (rest : List Event), s.inputs = .command port P :: rest →
    (decode s.cfg.n port P = .error .shortPayload → step s = .refused .shortPayload) ∧
    (decode s.cfg.n port P = .error .reservedFlagValue → step s = .refused .reservedFlagValue) ∧
    (decode s.cfg.n port P ≠ .error .shortPayload → decode s.cfg.n port P ≠ .error .reservedFlagValue →
      ∃ t, step s = .next t)

/-- 60_exceptions.md R146: no command writes a register of the tick agent, nor the configuration, nor what comes next. -/
def Obligations.CommandsKeepTheTickAgentsState : Prop :=
  ∀ (i : Instr) (s t : State), exec i s = .next t →
    t = { s with
      writePosition := t.writePosition
      slots := t.slots
      syncSearchPosition := t.syncSearchPosition
      driversEnabled := t.driversEnabled
      tcnt := t.tcnt
      out := t.out }

/-- 60_exceptions.md R146: TICK writes no register of the command agent: no slot, no `writePosition`, no timer; it moves
`syncSearchPosition` only together with `readPosition`. -/
def Obligations.TickKeepsTheCommandAgentsState : Prop :=
  ∀ s t : State, tick s = .next t →
    t.slots = s.slots ∧ t.writePosition = s.writePosition ∧ t.tcnt = s.tcnt ∧ t.cfg = s.cfg ∧
    t.inputs = s.inputs ∧ t.epoch = s.epoch ∧
    (t.readPosition = s.readPosition ∨ t.readPosition = nextIndex s.cfg.c s.readPosition) ∧
    (t.syncSearchPosition = s.syncSearchPosition ∨
      (s.syncSearchPosition = s.readPosition ∧ t.syncSearchPosition = t.readPosition))

/-! ### The whole machine -/

/-- 10_state.md R29, R31: the invariants hold after RESET, for every admissible configuration. -/
def Obligations.ResetMeetsTheInvariants : Prop :=
  ∀ (cfg : Config) (epoch : Nat), cfg.wellFormed = true →
    (State.resetOf cfg epoch).Inv ∧ (State.resetOf cfg epoch).InContract

/-- 10_state.md R29: every step keeps the invariants, from every state that meets them. -/
def Obligations.EveryStepKeepsTheInvariants : Prop :=
  ∀ s t : State, s.Inv → step s = .next t → t.Inv

/-- 10_state.md R29: they hold in every state reachable from RESET, whatever the outside presents and when. -/
def Obligations.ReachableStatesMeetTheInvariants : Prop :=
  ∀ (cfg : Config) (s : State), cfg.wellFormed = true → Reachable cfg s → s.Inv ∧ s.cfg = cfg

/-- A step runs the decoded instruction: when the next input is a command whose words decode to `i`, the step is `exec i`
with that input taken and no output yet (log 5, log 6). -/
def Obligations.StepRunsTheDecodedCommand : Prop :=
  ∀ (s : State) (port : Byte) (P : List Byte) (rest : List Event) (i : Instr), s.inputs = .command port P :: rest →
    decode s.cfg.n port P = .ok i → step s = exec i { s with inputs := rest, out := [] }

/-- A table word presented by `withFetchWord` is the very next command a 1-axis node runs (log 5). -/
def Obligations.FetchWordIsRunNext : Prop :=
  ∀ (s : State) (nbits w : Nat) (i : Instr), s.cfg.n = 1 → decodeTableWord nbits w = some i →
    step (s.withFetchWord nbits w) = exec i { s with out := [] }

/-- 70_reset_and_hazards.md R160, 10_state.md R31: RESET from any state gives every register its reset value (D3, D4, the
spec's own decisions, log 3). That it lists no slot, so that every slot holds free values again, is the model's form
of R31's unspecified slots (log 4), and that it keeps the inputs still to come and the configuration is the
model's choice (log 18). -/
def Obligations.ResetEventEffect : Prop :=
  ∀ (s : State) (rest : List Event), s.inputs = .reset :: rest → ∃ t, step s = .next t ∧
    t.axes = List.replicate s.cfg.n
      { targetSteps := 0, stepsRemaining := 0, accum := 0, direction := .forward, position := 0 } ∧
    t.timeRemaining = 0 ∧ t.totalTime = 0 ∧ t.bresenhamThreshold = 0 ∧ t.segmentKey = 0 ∧
    t.readPosition = 0 ∧ t.writePosition = 0 ∧ t.syncSearchPosition = 0 ∧ t.waitingForSync = false ∧
    t.driversEnabled = s.cfg.resetDriversEnabled ∧ t.enableN = !s.cfg.resetDriversEnabled ∧ t.tcnt = 0 ∧
    t.slots = [] ∧ t.inputs = rest ∧ t.cfg = s.cfg ∧
    ∀ i, i < s.cfg.n → t.dirLevels[i]? = some (s.cfg.dirForwardLevel.getD i true)

/-- 70_reset_and_hazards.md R163: what a host sees first after RESET: the status, `3N` zero bytes of position, an idle
TICK, and a first STEP_REQUEST that goes to slot 1. -/
def Obligations.FirstBehaviourAfterReset : Prop :=
  ∀ (cfg : Config) (epoch : Nat) (targets : List U24) (time : U24) (key : Byte) (abs wfs : Bool),
    cfg.wellFormed = true → targets.length = cfg.n →
    (∃ t, exec .getStatus { State.resetOf cfg epoch with out := [] } = .next t ∧
      t.replies = [(15, [1, 0, 0, 0, 0, 0, 0])]) ∧
    (∃ t, exec .getPosition { State.resetOf cfg epoch with out := [] } = .next t ∧
      t.replies = [(14, List.replicate (3 * cfg.n) 0)]) ∧
    tick (State.resetOf cfg epoch) = .next (State.resetOf cfg epoch) ∧
    (∃ t, exec (.stepRequest targets time key abs wfs) { State.resetOf cfg epoch with out := [] } = .next t ∧
      t.replies = [(13, [1, 0, 0, 0, 0, 0, 1])] ∧ t.slots.map Prod.fst = [1])

/-- 60_exceptions.md R150, R142: with nothing presented the clock runs on; `k` cycles short of the period only count, and
the cycle that completes it restarts the counter and is one TICK (D16, log 8; that the clock runs on while nothing
is presented is log 5). -/
def Obligations.TimerRaisesTickEveryPeriod : Prop :=
  ∀ (s : State) (k : Nat), s.inputs = [] → s.out = [] → s.tcnt < s.cfg.timebase →
    (s.tcnt + k < s.cfg.timebase → core.run k s = .next { s with tcnt := s.tcnt + k }) ∧
    (s.tcnt + k = s.cfg.timebase → core.run k s = tick { s with tcnt := 0 })

/-- 60_exceptions.md R151: after a SYNC that found `waitingForSync` the counter is 0, and the first TICK comes exactly one
full period later, whatever the phase was. (That a period is exactly `TIMEBASE` clk cycles is the spec's own decision
D16, and the restart at the compare value is presumed, log 8; that the clock runs on while nothing is presented
is the model's choice, log 5.) -/
def Obligations.SyncRealignsTheTick : Prop :=
  ∀ s t : State, s.cfg.hasSync = true → s.waitingForSync = true → 1 ≤ s.cfg.timebase → s.inputs = [] → s.out = [] →
    exec .sync s = .next t →
    t.tcnt = 0 ∧ core.run t.cfg.timebase t = tick t ∧
      ∀ k, k < t.cfg.timebase → core.run k t = .next { t with tcnt := k }

/-- 60_exceptions.md R144: a TICK and a command due together may come in either order: each order is what some `inputs`
present, and the steps are the two operations in that order (log 5). -/
def Obligations.BothOrdersAreAdmitted : Prop :=
  ∀ (s t u : State) (i : Instr) (port : Byte) (P : List Byte), decode s.cfg.n port P = .ok i →
    s.tcnt + 1 = s.cfg.timebase →
    (exec i { s with inputs := [.clk], out := [] } = .next t → t.tcnt = s.tcnt →
      core.run 2 { s with inputs := [.command port P, .clk] } = tick { t with inputs := [], out := [], tcnt := 0 }) ∧
    (tick { s with inputs := [.command port P], out := [], tcnt := 0 } = .next u →
      core.run 2 { s with inputs := [.clk, .command port P] } = exec i { u with inputs := [], out := [] })
end

