-- ==== Sys2Proof/Laws/Codec.lean ====
section
/-! SUPPORT. The codec over concatenated payloads (30_encoding.md R63 to R67): each read sees its own bytes only. -/

namespace Sys2Proof

theorem byteAt_append_right (xs ys : List Byte) (k : Nat) : byteAt (xs ++ ys) (xs.length + k) = byteAt ys k := by
  simp [byteAt, List.getD_eq_getElem?_getD, List.getElem?_append]

theorem byteAt_append_left {xs : List Byte} {k : Nat} (h : k < xs.length) (ys : List Byte) :
    byteAt (xs ++ ys) k = byteAt xs k := by
  simp [byteAt, List.getD_eq_getElem?_getD, List.getElem?_append, h]

theorem rdU24_append_right (xs ys : List Byte) (k : Nat) : rdU24 (xs ++ ys) (xs.length + k) = rdU24 ys k := by
  simp only [rdU24, Nat.add_assoc, byteAt_append_right]

@[simp] theorem wrU24_length (v : Word) : (wrU24 v).length = 3 := rfl

theorem flagByte_le (b : Bool) : (flagByte b).toNat ≤ 1 := by cases b <;> decide

theorem flagByte_beq_one (b : Bool) : (flagByte b == 1) = b := by cases b <;> decide

/-- A byte that is no more than 1 is a flag's byte. -/
theorem flagByte_of_le {b : Byte} (h : b.toNat ≤ 1) : flagByte (b == 1) = b := by
  have : b = 0 ∨ b = 1 := by
    have : b.toNat = 0 ∨ b.toNat = 1 := by omega
    rcases this with h | h
    · exact .inl (BitVec.eq_of_toNat_eq h)
    · exact .inr (BitVec.eq_of_toNat_eq h)
  rcases this with rfl | rfl <;> decide

/-- The targets' bytes: three for each. -/
theorem targetBytes_length (ts : List U24) : (ts.flatMap fun v => wrU24 (v.setWidth 32)).length = 3 * ts.length := by
  induction ts with
  | nil => rfl
  | cons t ts ih => rw [List.flatMap_cons, List.length_append, ih, wrU24_length, List.length_cons]; omega

end Sys2Proof
end

