-- ==== Sys2Proof/Laws/Index.lean ====
section
/-! SUPPORT. Circular index arithmetic: `nextIndex` and `distance` (41_motion_buffer.md R80). -/

namespace Sys2Proof.Machine

theorem nextIndex_toNat {c : Nat} (h0 : 0 < c) (h : c ≤ 256) (p : Byte) :
    (nextIndex c p).toNat = (p.toNat + 1) % c := by
  have := Nat.mod_lt (p.toNat + 1) h0
  simp only [nextIndex, BitVec.toNat_ofNat]
  omega

theorem nextIndex_lt {c : Nat} (h0 : 0 < c) (h : c ≤ 256) (p : Byte) : (nextIndex c p).toNat < c := by
  rw [nextIndex_toNat h0 h]
  exact Nat.mod_lt _ h0

/-- `nextIndex` on an index of the RAM, without `mod`. -/
theorem nextIndex_cases {c : Nat} (h : c ≤ 256) {p : Byte} (hp : p.toNat < c) :
    (nextIndex c p).toNat = if p.toNat + 1 = c then 0 else p.toNat + 1 := by
  rw [nextIndex_toNat (by omega) h]
  split
  · next e => rw [e, Nat.mod_self]
  · exact Nat.mod_eq_of_lt (by omega)

/-- `distance` between indices of the RAM, without `mod`. -/
theorem distance_cases {c : Nat} {a b : Byte} (_ha : a.toNat < c) (hb : b.toNat < c) :
    distance c a b = if a.toNat ≤ b.toNat then b.toNat - a.toNat else b.toNat + c - a.toNat := by
  unfold distance
  split
  · have e : b.toNat + c - a.toNat = (b.toNat - a.toNat) + c := by omega
    rw [e, Nat.add_mod_right]
    exact Nat.mod_eq_of_lt (by omega)
  · exact Nat.mod_eq_of_lt (by omega)

theorem distance_lt {c : Nat} (h0 : 0 < c) (a b : Byte) : distance c a b < c := Nat.mod_lt _ h0

theorem distance_self {c : Nat} {a : Byte} (ha : a.toNat < c) : distance c a a = 0 := by
  simp [distance_cases ha ha]

theorem distance_eq_zero_iff {c : Nat} {a b : Byte} (ha : a.toNat < c) (hb : b.toNat < c) :
    distance c a b = 0 ↔ b = a := by
  rw [distance_cases ha hb, ← BitVec.toNat_inj]
  split <;> omega

/-- Two indices at one distance are one index. -/
theorem distance_inj {c : Nat} {a p q : Byte} (ha : a.toNat < c) (hp : p.toNat < c) (hq : q.toNat < c)
    (h : distance c a p = distance c a q) : p = q := by
  rw [distance_cases ha hp, distance_cases ha hq] at h
  apply BitVec.eq_of_toNat_eq
  split at h <;> split at h <;> omega

/-- Advancing the start by one shortens the way by one. -/
theorem distance_from_next {c : Nat} (h : c ≤ 256) {a b : Byte} (ha : a.toNat < c) (hb : b.toNat < c)
    (hne : b ≠ a) : distance c (nextIndex c a) b = distance c a b - 1 := by
  have hn := nextIndex_lt (by omega) h a
  have hne' : b.toNat ≠ a.toNat := fun e => hne (BitVec.eq_of_toNat_eq e)
  rw [distance_cases hn hb, distance_cases ha hb, nextIndex_cases h ha]
  split <;> split <;> split <;> omega

/-- Advancing the end by one lengthens the way by one, until it closes the circle. -/
theorem distance_to_next {c : Nat} (h : c ≤ 256) {a b : Byte} (ha : a.toNat < c) (hb : b.toNat < c) :
    distance c a (nextIndex c b) = if distance c a b + 1 = c then 0 else distance c a b + 1 := by
  have hn := nextIndex_lt (by omega) h b
  rw [distance_cases ha hn, distance_cases ha hb, nextIndex_cases h hb]
  split <;> split <;> split <;> (try split) <;> omega

/-- Ways add up while they do not close the circle. -/
theorem distance_trans {c : Nat} {a b p : Byte} (ha : a.toNat < c) (hb : b.toNat < c) (hp : p.toNat < c)
    (hle : distance c a b ≤ distance c a p) : distance c b p = distance c a p - distance c a b := by
  rw [distance_cases ha hb, distance_cases ha hp] at hle
  rw [distance_cases hb hp, distance_cases ha hb, distance_cases ha hp]
  split at hle <;> split at hle <;> split <;> omega

theorem distance_add {c : Nat} {a b p : Byte} (ha : a.toNat < c) (hb : b.toNat < c) (hp : p.toNat < c)
    (hlt : distance c a b + distance c b p < c) : distance c a p = distance c a b + distance c b p := by
  rw [distance_cases ha hb, distance_cases hb hp] at hlt
  rw [distance_cases ha hp, distance_cases ha hb, distance_cases hb hp]
  by_cases h1 : a.toNat ≤ b.toNat <;> by_cases h2 : b.toNat ≤ p.toNat <;> by_cases h3 : a.toNat ≤ p.toNat <;>
    simp only [h1, h2, h3, if_true, if_false] at hlt ⊢ <;> omega

/-- The next index is at distance one (a RAM has at least two slots). -/
theorem distance_next {c : Nat} (h2 : 2 ≤ c) (h : c ≤ 256) {a : Byte} (ha : a.toNat < c) :
    distance c a (nextIndex c a) = 1 := by
  rw [distance_to_next h ha ha, distance_self ha, if_neg (by omega)]

end Sys2Proof.Machine
end

