-- ==== Sys2Proof/Laws/State.lean ====
section
/-! SUPPORT. One lemma per field and per named register write, so that no later proof unfolds a record update. -/

namespace Sys2Proof.Machine

@[simp] theorem writeSlot_cfg (p : Byte) (v : Slot) (s : State) : (State.writeSlot p v s).cfg = s.cfg := rfl
@[simp] theorem writeSlot_axes (p : Byte) (v : Slot) (s : State) : (State.writeSlot p v s).axes = s.axes := rfl
@[simp] theorem writeSlot_bresenhamThreshold (p : Byte) (v : Slot) (s : State) : (State.writeSlot p v s).bresenhamThreshold = s.bresenhamThreshold := rfl
@[simp] theorem writeSlot_totalTime (p : Byte) (v : Slot) (s : State) : (State.writeSlot p v s).totalTime = s.totalTime := rfl
@[simp] theorem writeSlot_timeRemaining (p : Byte) (v : Slot) (s : State) : (State.writeSlot p v s).timeRemaining = s.timeRemaining := rfl
@[simp] theorem writeSlot_segmentKey (p : Byte) (v : Slot) (s : State) : (State.writeSlot p v s).segmentKey = s.segmentKey := rfl
@[simp] theorem writeSlot_readPosition (p : Byte) (v : Slot) (s : State) : (State.writeSlot p v s).readPosition = s.readPosition := rfl
@[simp] theorem writeSlot_writePosition (p : Byte) (v : Slot) (s : State) : (State.writeSlot p v s).writePosition = s.writePosition := rfl
@[simp] theorem writeSlot_syncSearchPosition (p : Byte) (v : Slot) (s : State) : (State.writeSlot p v s).syncSearchPosition = s.syncSearchPosition := rfl
@[simp] theorem writeSlot_waitingForSync (p : Byte) (v : Slot) (s : State) : (State.writeSlot p v s).waitingForSync = s.waitingForSync := rfl
@[simp] theorem writeSlot_driversEnabled (p : Byte) (v : Slot) (s : State) : (State.writeSlot p v s).driversEnabled = s.driversEnabled := rfl
@[simp] theorem writeSlot_tcnt (p : Byte) (v : Slot) (s : State) : (State.writeSlot p v s).tcnt = s.tcnt := rfl
@[simp] theorem writeSlot_slots (p : Byte) (v : Slot) (s : State) : (State.writeSlot p v s).slots = Memory.write p.toNat v s.slots := rfl
@[simp] theorem writeSlot_out (p : Byte) (v : Slot) (s : State) : (State.writeSlot p v s).out = s.out := rfl
@[simp] theorem writeSlot_inputs (p : Byte) (v : Slot) (s : State) : (State.writeSlot p v s).inputs = s.inputs := rfl
@[simp] theorem writeSlot_epoch (p : Byte) (v : Slot) (s : State) : (State.writeSlot p v s).epoch = s.epoch := rfl

@[simp] theorem setReadPosition_cfg (p : Byte) (s : State) : (State.setReadPosition p s).cfg = s.cfg := rfl
@[simp] theorem setReadPosition_axes (p : Byte) (s : State) : (State.setReadPosition p s).axes = s.axes := rfl
@[simp] theorem setReadPosition_bresenhamThreshold (p : Byte) (s : State) : (State.setReadPosition p s).bresenhamThreshold = s.bresenhamThreshold := rfl
@[simp] theorem setReadPosition_totalTime (p : Byte) (s : State) : (State.setReadPosition p s).totalTime = s.totalTime := rfl
@[simp] theorem setReadPosition_timeRemaining (p : Byte) (s : State) : (State.setReadPosition p s).timeRemaining = s.timeRemaining := rfl
@[simp] theorem setReadPosition_segmentKey (p : Byte) (s : State) : (State.setReadPosition p s).segmentKey = s.segmentKey := rfl
@[simp] theorem setReadPosition_readPosition (p : Byte) (s : State) : (State.setReadPosition p s).readPosition = p := rfl
@[simp] theorem setReadPosition_writePosition (p : Byte) (s : State) : (State.setReadPosition p s).writePosition = s.writePosition := rfl
@[simp] theorem setReadPosition_syncSearchPosition (p : Byte) (s : State) : (State.setReadPosition p s).syncSearchPosition = s.syncSearchPosition := rfl
@[simp] theorem setReadPosition_waitingForSync (p : Byte) (s : State) : (State.setReadPosition p s).waitingForSync = s.waitingForSync := rfl
@[simp] theorem setReadPosition_driversEnabled (p : Byte) (s : State) : (State.setReadPosition p s).driversEnabled = s.driversEnabled := rfl
@[simp] theorem setReadPosition_tcnt (p : Byte) (s : State) : (State.setReadPosition p s).tcnt = s.tcnt := rfl
@[simp] theorem setReadPosition_slots (p : Byte) (s : State) : (State.setReadPosition p s).slots = s.slots := rfl
@[simp] theorem setReadPosition_out (p : Byte) (s : State) : (State.setReadPosition p s).out = s.out := rfl
@[simp] theorem setReadPosition_inputs (p : Byte) (s : State) : (State.setReadPosition p s).inputs = s.inputs := rfl
@[simp] theorem setReadPosition_epoch (p : Byte) (s : State) : (State.setReadPosition p s).epoch = s.epoch := rfl

@[simp] theorem setWritePosition_cfg (p : Byte) (s : State) : (State.setWritePosition p s).cfg = s.cfg := rfl
@[simp] theorem setWritePosition_axes (p : Byte) (s : State) : (State.setWritePosition p s).axes = s.axes := rfl
@[simp] theorem setWritePosition_bresenhamThreshold (p : Byte) (s : State) : (State.setWritePosition p s).bresenhamThreshold = s.bresenhamThreshold := rfl
@[simp] theorem setWritePosition_totalTime (p : Byte) (s : State) : (State.setWritePosition p s).totalTime = s.totalTime := rfl
@[simp] theorem setWritePosition_timeRemaining (p : Byte) (s : State) : (State.setWritePosition p s).timeRemaining = s.timeRemaining := rfl
@[simp] theorem setWritePosition_segmentKey (p : Byte) (s : State) : (State.setWritePosition p s).segmentKey = s.segmentKey := rfl
@[simp] theorem setWritePosition_readPosition (p : Byte) (s : State) : (State.setWritePosition p s).readPosition = s.readPosition := rfl
@[simp] theorem setWritePosition_writePosition (p : Byte) (s : State) : (State.setWritePosition p s).writePosition = p := rfl
@[simp] theorem setWritePosition_syncSearchPosition (p : Byte) (s : State) : (State.setWritePosition p s).syncSearchPosition = s.syncSearchPosition := rfl
@[simp] theorem setWritePosition_waitingForSync (p : Byte) (s : State) : (State.setWritePosition p s).waitingForSync = s.waitingForSync := rfl
@[simp] theorem setWritePosition_driversEnabled (p : Byte) (s : State) : (State.setWritePosition p s).driversEnabled = s.driversEnabled := rfl
@[simp] theorem setWritePosition_tcnt (p : Byte) (s : State) : (State.setWritePosition p s).tcnt = s.tcnt := rfl
@[simp] theorem setWritePosition_slots (p : Byte) (s : State) : (State.setWritePosition p s).slots = s.slots := rfl
@[simp] theorem setWritePosition_out (p : Byte) (s : State) : (State.setWritePosition p s).out = s.out := rfl
@[simp] theorem setWritePosition_inputs (p : Byte) (s : State) : (State.setWritePosition p s).inputs = s.inputs := rfl
@[simp] theorem setWritePosition_epoch (p : Byte) (s : State) : (State.setWritePosition p s).epoch = s.epoch := rfl

@[simp] theorem setSyncSearchPosition_cfg (p : Byte) (s : State) : (State.setSyncSearchPosition p s).cfg = s.cfg := rfl
@[simp] theorem setSyncSearchPosition_axes (p : Byte) (s : State) : (State.setSyncSearchPosition p s).axes = s.axes := rfl
@[simp] theorem setSyncSearchPosition_bresenhamThreshold (p : Byte) (s : State) : (State.setSyncSearchPosition p s).bresenhamThreshold = s.bresenhamThreshold := rfl
@[simp] theorem setSyncSearchPosition_totalTime (p : Byte) (s : State) : (State.setSyncSearchPosition p s).totalTime = s.totalTime := rfl
@[simp] theorem setSyncSearchPosition_timeRemaining (p : Byte) (s : State) : (State.setSyncSearchPosition p s).timeRemaining = s.timeRemaining := rfl
@[simp] theorem setSyncSearchPosition_segmentKey (p : Byte) (s : State) : (State.setSyncSearchPosition p s).segmentKey = s.segmentKey := rfl
@[simp] theorem setSyncSearchPosition_readPosition (p : Byte) (s : State) : (State.setSyncSearchPosition p s).readPosition = s.readPosition := rfl
@[simp] theorem setSyncSearchPosition_writePosition (p : Byte) (s : State) : (State.setSyncSearchPosition p s).writePosition = s.writePosition := rfl
@[simp] theorem setSyncSearchPosition_syncSearchPosition (p : Byte) (s : State) : (State.setSyncSearchPosition p s).syncSearchPosition = p := rfl
@[simp] theorem setSyncSearchPosition_waitingForSync (p : Byte) (s : State) : (State.setSyncSearchPosition p s).waitingForSync = s.waitingForSync := rfl
@[simp] theorem setSyncSearchPosition_driversEnabled (p : Byte) (s : State) : (State.setSyncSearchPosition p s).driversEnabled = s.driversEnabled := rfl
@[simp] theorem setSyncSearchPosition_tcnt (p : Byte) (s : State) : (State.setSyncSearchPosition p s).tcnt = s.tcnt := rfl
@[simp] theorem setSyncSearchPosition_slots (p : Byte) (s : State) : (State.setSyncSearchPosition p s).slots = s.slots := rfl
@[simp] theorem setSyncSearchPosition_out (p : Byte) (s : State) : (State.setSyncSearchPosition p s).out = s.out := rfl
@[simp] theorem setSyncSearchPosition_inputs (p : Byte) (s : State) : (State.setSyncSearchPosition p s).inputs = s.inputs := rfl
@[simp] theorem setSyncSearchPosition_epoch (p : Byte) (s : State) : (State.setSyncSearchPosition p s).epoch = s.epoch := rfl

@[simp] theorem setWaitingForSync_cfg (b : Bool) (s : State) : (State.setWaitingForSync b s).cfg = s.cfg := rfl
@[simp] theorem setWaitingForSync_axes (b : Bool) (s : State) : (State.setWaitingForSync b s).axes = s.axes := rfl
@[simp] theorem setWaitingForSync_bresenhamThreshold (b : Bool) (s : State) : (State.setWaitingForSync b s).bresenhamThreshold = s.bresenhamThreshold := rfl
@[simp] theorem setWaitingForSync_totalTime (b : Bool) (s : State) : (State.setWaitingForSync b s).totalTime = s.totalTime := rfl
@[simp] theorem setWaitingForSync_timeRemaining (b : Bool) (s : State) : (State.setWaitingForSync b s).timeRemaining = s.timeRemaining := rfl
@[simp] theorem setWaitingForSync_segmentKey (b : Bool) (s : State) : (State.setWaitingForSync b s).segmentKey = s.segmentKey := rfl
@[simp] theorem setWaitingForSync_readPosition (b : Bool) (s : State) : (State.setWaitingForSync b s).readPosition = s.readPosition := rfl
@[simp] theorem setWaitingForSync_writePosition (b : Bool) (s : State) : (State.setWaitingForSync b s).writePosition = s.writePosition := rfl
@[simp] theorem setWaitingForSync_syncSearchPosition (b : Bool) (s : State) : (State.setWaitingForSync b s).syncSearchPosition = s.syncSearchPosition := rfl
@[simp] theorem setWaitingForSync_waitingForSync (b : Bool) (s : State) : (State.setWaitingForSync b s).waitingForSync = b := rfl
@[simp] theorem setWaitingForSync_driversEnabled (b : Bool) (s : State) : (State.setWaitingForSync b s).driversEnabled = s.driversEnabled := rfl
@[simp] theorem setWaitingForSync_tcnt (b : Bool) (s : State) : (State.setWaitingForSync b s).tcnt = s.tcnt := rfl
@[simp] theorem setWaitingForSync_slots (b : Bool) (s : State) : (State.setWaitingForSync b s).slots = s.slots := rfl
@[simp] theorem setWaitingForSync_out (b : Bool) (s : State) : (State.setWaitingForSync b s).out = s.out := rfl
@[simp] theorem setWaitingForSync_inputs (b : Bool) (s : State) : (State.setWaitingForSync b s).inputs = s.inputs := rfl
@[simp] theorem setWaitingForSync_epoch (b : Bool) (s : State) : (State.setWaitingForSync b s).epoch = s.epoch := rfl

@[simp] theorem setTcnt_cfg (t : Nat) (s : State) : (State.setTcnt t s).cfg = s.cfg := rfl
@[simp] theorem setTcnt_axes (t : Nat) (s : State) : (State.setTcnt t s).axes = s.axes := rfl
@[simp] theorem setTcnt_bresenhamThreshold (t : Nat) (s : State) : (State.setTcnt t s).bresenhamThreshold = s.bresenhamThreshold := rfl
@[simp] theorem setTcnt_totalTime (t : Nat) (s : State) : (State.setTcnt t s).totalTime = s.totalTime := rfl
@[simp] theorem setTcnt_timeRemaining (t : Nat) (s : State) : (State.setTcnt t s).timeRemaining = s.timeRemaining := rfl
@[simp] theorem setTcnt_segmentKey (t : Nat) (s : State) : (State.setTcnt t s).segmentKey = s.segmentKey := rfl
@[simp] theorem setTcnt_readPosition (t : Nat) (s : State) : (State.setTcnt t s).readPosition = s.readPosition := rfl
@[simp] theorem setTcnt_writePosition (t : Nat) (s : State) : (State.setTcnt t s).writePosition = s.writePosition := rfl
@[simp] theorem setTcnt_syncSearchPosition (t : Nat) (s : State) : (State.setTcnt t s).syncSearchPosition = s.syncSearchPosition := rfl
@[simp] theorem setTcnt_waitingForSync (t : Nat) (s : State) : (State.setTcnt t s).waitingForSync = s.waitingForSync := rfl
@[simp] theorem setTcnt_driversEnabled (t : Nat) (s : State) : (State.setTcnt t s).driversEnabled = s.driversEnabled := rfl
@[simp] theorem setTcnt_tcnt (t : Nat) (s : State) : (State.setTcnt t s).tcnt = t := rfl
@[simp] theorem setTcnt_slots (t : Nat) (s : State) : (State.setTcnt t s).slots = s.slots := rfl
@[simp] theorem setTcnt_out (t : Nat) (s : State) : (State.setTcnt t s).out = s.out := rfl
@[simp] theorem setTcnt_inputs (t : Nat) (s : State) : (State.setTcnt t s).inputs = s.inputs := rfl
@[simp] theorem setTcnt_epoch (t : Nat) (s : State) : (State.setTcnt t s).epoch = s.epoch := rfl

@[simp] theorem emit_cfg (o : Output) (s : State) : (State.emit o s).cfg = s.cfg := rfl
@[simp] theorem emit_axes (o : Output) (s : State) : (State.emit o s).axes = s.axes := rfl
@[simp] theorem emit_bresenhamThreshold (o : Output) (s : State) : (State.emit o s).bresenhamThreshold = s.bresenhamThreshold := rfl
@[simp] theorem emit_totalTime (o : Output) (s : State) : (State.emit o s).totalTime = s.totalTime := rfl
@[simp] theorem emit_timeRemaining (o : Output) (s : State) : (State.emit o s).timeRemaining = s.timeRemaining := rfl
@[simp] theorem emit_segmentKey (o : Output) (s : State) : (State.emit o s).segmentKey = s.segmentKey := rfl
@[simp] theorem emit_readPosition (o : Output) (s : State) : (State.emit o s).readPosition = s.readPosition := rfl
@[simp] theorem emit_writePosition (o : Output) (s : State) : (State.emit o s).writePosition = s.writePosition := rfl
@[simp] theorem emit_syncSearchPosition (o : Output) (s : State) : (State.emit o s).syncSearchPosition = s.syncSearchPosition := rfl
@[simp] theorem emit_waitingForSync (o : Output) (s : State) : (State.emit o s).waitingForSync = s.waitingForSync := rfl
@[simp] theorem emit_driversEnabled (o : Output) (s : State) : (State.emit o s).driversEnabled = s.driversEnabled := rfl
@[simp] theorem emit_tcnt (o : Output) (s : State) : (State.emit o s).tcnt = s.tcnt := rfl
@[simp] theorem emit_slots (o : Output) (s : State) : (State.emit o s).slots = s.slots := rfl
@[simp] theorem emit_out (o : Output) (s : State) : (State.emit o s).out = s.out ++ [o] := rfl
@[simp] theorem emit_inputs (o : Output) (s : State) : (State.emit o s).inputs = s.inputs := rfl
@[simp] theorem emit_epoch (o : Output) (s : State) : (State.emit o s).epoch = s.epoch := rfl

@[simp] theorem setDriversEnabled_cfg (b : Bool) (s : State) : (State.setDriversEnabled b s).cfg = s.cfg := rfl
@[simp] theorem setDriversEnabled_axes (b : Bool) (s : State) : (State.setDriversEnabled b s).axes = s.axes := rfl
@[simp] theorem setDriversEnabled_bresenhamThreshold (b : Bool) (s : State) : (State.setDriversEnabled b s).bresenhamThreshold = s.bresenhamThreshold := rfl
@[simp] theorem setDriversEnabled_totalTime (b : Bool) (s : State) : (State.setDriversEnabled b s).totalTime = s.totalTime := rfl
@[simp] theorem setDriversEnabled_timeRemaining (b : Bool) (s : State) : (State.setDriversEnabled b s).timeRemaining = s.timeRemaining := rfl
@[simp] theorem setDriversEnabled_segmentKey (b : Bool) (s : State) : (State.setDriversEnabled b s).segmentKey = s.segmentKey := rfl
@[simp] theorem setDriversEnabled_readPosition (b : Bool) (s : State) : (State.setDriversEnabled b s).readPosition = s.readPosition := rfl
@[simp] theorem setDriversEnabled_writePosition (b : Bool) (s : State) : (State.setDriversEnabled b s).writePosition = s.writePosition := rfl
@[simp] theorem setDriversEnabled_syncSearchPosition (b : Bool) (s : State) : (State.setDriversEnabled b s).syncSearchPosition = s.syncSearchPosition := rfl
@[simp] theorem setDriversEnabled_waitingForSync (b : Bool) (s : State) : (State.setDriversEnabled b s).waitingForSync = s.waitingForSync := rfl
@[simp] theorem setDriversEnabled_driversEnabled (b : Bool) (s : State) : (State.setDriversEnabled b s).driversEnabled = b := rfl
@[simp] theorem setDriversEnabled_tcnt (b : Bool) (s : State) : (State.setDriversEnabled b s).tcnt = s.tcnt := rfl
@[simp] theorem setDriversEnabled_slots (b : Bool) (s : State) : (State.setDriversEnabled b s).slots = s.slots := rfl
@[simp] theorem setDriversEnabled_out (b : Bool) (s : State) : (State.setDriversEnabled b s).out = s.out ++ [.enableN (!b)] := rfl
@[simp] theorem setDriversEnabled_inputs (b : Bool) (s : State) : (State.setDriversEnabled b s).inputs = s.inputs := rfl
@[simp] theorem setDriversEnabled_epoch (b : Bool) (s : State) : (State.setDriversEnabled b s).epoch = s.epoch := rfl

@[simp] theorem sendReply_cfg (port : Byte) (payload : List Byte) (s : State) : (State.sendReply port payload s).cfg = s.cfg := rfl
@[simp] theorem sendReply_axes (port : Byte) (payload : List Byte) (s : State) : (State.sendReply port payload s).axes = s.axes := rfl
@[simp] theorem sendReply_bresenhamThreshold (port : Byte) (payload : List Byte) (s : State) : (State.sendReply port payload s).bresenhamThreshold = s.bresenhamThreshold := rfl
@[simp] theorem sendReply_totalTime (port : Byte) (payload : List Byte) (s : State) : (State.sendReply port payload s).totalTime = s.totalTime := rfl
@[simp] theorem sendReply_timeRemaining (port : Byte) (payload : List Byte) (s : State) : (State.sendReply port payload s).timeRemaining = s.timeRemaining := rfl
@[simp] theorem sendReply_segmentKey (port : Byte) (payload : List Byte) (s : State) : (State.sendReply port payload s).segmentKey = s.segmentKey := rfl
@[simp] theorem sendReply_readPosition (port : Byte) (payload : List Byte) (s : State) : (State.sendReply port payload s).readPosition = s.readPosition := rfl
@[simp] theorem sendReply_writePosition (port : Byte) (payload : List Byte) (s : State) : (State.sendReply port payload s).writePosition = s.writePosition := rfl
@[simp] theorem sendReply_syncSearchPosition (port : Byte) (payload : List Byte) (s : State) : (State.sendReply port payload s).syncSearchPosition = s.syncSearchPosition := rfl
@[simp] theorem sendReply_waitingForSync (port : Byte) (payload : List Byte) (s : State) : (State.sendReply port payload s).waitingForSync = s.waitingForSync := rfl
@[simp] theorem sendReply_driversEnabled (port : Byte) (payload : List Byte) (s : State) : (State.sendReply port payload s).driversEnabled = s.driversEnabled := rfl
@[simp] theorem sendReply_tcnt (port : Byte) (payload : List Byte) (s : State) : (State.sendReply port payload s).tcnt = s.tcnt := rfl
@[simp] theorem sendReply_slots (port : Byte) (payload : List Byte) (s : State) : (State.sendReply port payload s).slots = s.slots := rfl
@[simp] theorem sendReply_out (port : Byte) (payload : List Byte) (s : State) : (State.sendReply port payload s).out = s.out ++ [.reply port payload] := rfl
@[simp] theorem sendReply_inputs (port : Byte) (payload : List Byte) (s : State) : (State.sendReply port payload s).inputs = s.inputs := rfl
@[simp] theorem sendReply_epoch (port : Byte) (payload : List Byte) (s : State) : (State.sendReply port payload s).epoch = s.epoch := rfl

@[simp] theorem takeEvent_cfg (s : State) : (State.takeEvent s).cfg = s.cfg := rfl
@[simp] theorem takeEvent_axes (s : State) : (State.takeEvent s).axes = s.axes := rfl
@[simp] theorem takeEvent_bresenhamThreshold (s : State) : (State.takeEvent s).bresenhamThreshold = s.bresenhamThreshold := rfl
@[simp] theorem takeEvent_totalTime (s : State) : (State.takeEvent s).totalTime = s.totalTime := rfl
@[simp] theorem takeEvent_timeRemaining (s : State) : (State.takeEvent s).timeRemaining = s.timeRemaining := rfl
@[simp] theorem takeEvent_segmentKey (s : State) : (State.takeEvent s).segmentKey = s.segmentKey := rfl
@[simp] theorem takeEvent_readPosition (s : State) : (State.takeEvent s).readPosition = s.readPosition := rfl
@[simp] theorem takeEvent_writePosition (s : State) : (State.takeEvent s).writePosition = s.writePosition := rfl
@[simp] theorem takeEvent_syncSearchPosition (s : State) : (State.takeEvent s).syncSearchPosition = s.syncSearchPosition := rfl
@[simp] theorem takeEvent_waitingForSync (s : State) : (State.takeEvent s).waitingForSync = s.waitingForSync := rfl
@[simp] theorem takeEvent_driversEnabled (s : State) : (State.takeEvent s).driversEnabled = s.driversEnabled := rfl
@[simp] theorem takeEvent_tcnt (s : State) : (State.takeEvent s).tcnt = s.tcnt := rfl
@[simp] theorem takeEvent_slots (s : State) : (State.takeEvent s).slots = s.slots := rfl
@[simp] theorem takeEvent_out (s : State) : (State.takeEvent s).out = [] := rfl
@[simp] theorem takeEvent_inputs (s : State) : (State.takeEvent s).inputs = s.inputs.tail := rfl
@[simp] theorem takeEvent_epoch (s : State) : (State.takeEvent s).epoch = s.epoch := rfl

end Sys2Proof.Machine
end

