-- ==== Sys2Proof/Laws/Memory.lean ====
section
/-! SUPPORT. The slot RAM: read after write, and every operation keeps its canonical form (10_state.md R24,
20_memory.md R40). -/

namespace Sys2Proof.Machine

theorem Memory.find_write_same (p : Nat) (v : Slot) (m : Memory) :
    Memory.find p (Memory.write p v m) = some v := by
  induction m with
  | nil => simp [Memory.write, Memory.find]
  | cons e m ih =>
    simp only [Memory.write]
    split
    · simp [Memory.find]
    · split
      · simp [Memory.find]
      · next h => simp only [Memory.find, if_neg (Ne.symm h), ih]

theorem Memory.find_write_other {p q : Nat} (h : q ≠ p) (v : Slot) (m : Memory) :
    Memory.find q (Memory.write p v m) = Memory.find q m := by
  induction m with
  | nil => simp [Memory.write, Memory.find, Ne.symm h]
  | cons e m ih =>
    simp only [Memory.write]
    split
    · simp [Memory.find, Ne.symm h]
    · split
      · next hp => subst hp; simp [Memory.find, Ne.symm h]
      · simp only [Memory.find, ih]

theorem Memory.sorted_cons {e : Nat × Slot} {m : Memory} :
    Memory.sorted (e :: m) = true ↔ (∀ x ∈ m.head?, e.1 < x.1) ∧ Memory.sorted m = true := by
  cases m with
  | nil => simp [Memory.sorted]
  | cons f m => simp [Memory.sorted]

theorem Memory.head_write (p : Nat) (v : Slot) (m : Memory) :
    ∀ x ∈ (Memory.write p v m).head?, x.1 = p ∨ x ∈ m.head? := by
  cases m with
  | nil => simp [Memory.write]
  | cons e m =>
    simp only [Memory.write]
    split <;> (try split) <;> simp

/-- A write keeps the indices strictly rising. -/
theorem Memory.sorted_write (p : Nat) (v : Slot) {m : Memory} (h : Memory.sorted m = true) :
    Memory.sorted (Memory.write p v m) = true := by
  induction m with
  | nil => simp [Memory.write, Memory.sorted]
  | cons e m ih =>
    obtain ⟨hlt, hs⟩ := Memory.sorted_cons.mp h
    simp only [Memory.write]
    split
    · next hp => exact Memory.sorted_cons.mpr ⟨by simpa using hp, h⟩
    · split
      · next hp => exact Memory.sorted_cons.mpr ⟨by simpa [hp] using hlt, hs⟩
      · next hp hne =>
        refine Memory.sorted_cons.mpr ⟨fun x hx => ?_, ih hs⟩
        rcases Memory.head_write p v m x hx with hx | hx
        · rw [hx]; show e.1 < p; omega
        · exact hlt x hx

theorem Memory.mem_write {p : Nat} {v : Slot} {m : Memory} {e : Nat × Slot}
    (h : e ∈ Memory.write p v m) : e = (p, v) ∨ e ∈ m := by
  induction m with
  | nil => simpa [Memory.write] using h
  | cons f m ih =>
    simp only [Memory.write] at h
    split at h
    · simpa using h
    · split at h
      · rcases List.mem_cons.mp h with h | h <;> simp [h]
      · rcases List.mem_cons.mp h with h | h
        · simp [h]
        · rcases ih h with h | h <;> simp [h]

theorem Memory.find_mem {p : Nat} {v : Slot} {m : Memory} (h : Memory.find p m = some v) : (p, v) ∈ m := by
  induction m with
  | nil => simp [Memory.find] at h
  | cons e m ih =>
    obtain ⟨q, u⟩ := e
    simp only [Memory.find] at h
    split at h
    · next hq => simp_all
    · exact List.mem_cons_of_mem _ (ih h)

/-- A write of a well-formed record to a slot of the RAM keeps the canonical form. -/
theorem Memory.wf_write {n c p : Nat} {v : Slot} {m : Memory} (hm : Memory.wf n c m = true) (hp : p < c)
    (hv : v.wellFormed n = true) : Memory.wf n c (Memory.write p v m) = true := by
  simp only [Memory.wf, Bool.and_eq_true, List.all_eq_true, decide_eq_true_eq] at hm ⊢
  refine ⟨Memory.sorted_write p v hm.1, fun e he => ?_⟩
  rcases Memory.mem_write he with rfl | he
  · exact ⟨hp, hv⟩
  · exact hm.2 e he

/-- Nothing listed is canonical: the slot RAM after RESET. -/
theorem Memory.wf_nil (n c : Nat) : Memory.wf n c [] = true := rfl

theorem slots_reset_wf : Memory.wf State.reset.cfg.n State.reset.cfg.c State.reset.slots = true := rfl

theorem Slot.wellFormed_iff {n : Nat} {v : Slot} :
    v.wellFormed n = true ↔ v.target.length = n ∧ v.segmentTime.toNat < 16777216 := by
  simp [Slot.wellFormed]

theorem unwrittenSlot_wellFormed (epoch n p : Nat) : (unwrittenSlot epoch n p).wellFormed n = true := by
  have := (Config.unwrittenTime epoch p).isLt
  refine Slot.wellFormed_iff.mpr ⟨by simp [unwrittenSlot], ?_⟩
  show ((Config.unwrittenTime epoch p).setWidth 32).toNat < _
  rw [BitVec.toNat_setWidth]
  omega

/-- Every slot reads as a well-formed record, written or not. -/
theorem slotAt_wellFormed {s : State} (h : Memory.wf s.cfg.n s.cfg.c s.slots = true) (p : Byte) :
    (s.slotAt p).wellFormed s.cfg.n = true := by
  unfold State.slotAt
  cases hf : Memory.find p.toNat s.slots with
  | none => exact unwrittenSlot_wellFormed _ _ _
  | some v =>
    simp only [Memory.wf, Bool.and_eq_true, List.all_eq_true, decide_eq_true_eq] at h
    exact (h.2 _ (Memory.find_mem hf)).2

/-- What a slot reads as depends on the RAM, the RESET count and the number of axes alone. -/
theorem slotAt_congr {s t : State} (h1 : t.slots = s.slots) (h2 : t.epoch = s.epoch) (h3 : t.cfg = s.cfg)
    (p : Byte) : t.slotAt p = s.slotAt p := by
  unfold State.slotAt
  rw [h1, h2, h3]

theorem slotAt_writeSlot_same (p : Byte) (v : Slot) (s : State) : (State.writeSlot p v s).slotAt p = v := by
  simp [State.slotAt, Memory.find_write_same]

theorem slotAt_writeSlot_other {p q : Byte} (h : q ≠ p) (v : Slot) (s : State) :
    (State.writeSlot p v s).slotAt q = s.slotAt q := by
  have : q.toNat ≠ p.toNat := fun e => h (BitVec.eq_of_toNat_eq e)
  simp [State.slotAt, Memory.find_write_other this]

theorem slotAt_clearWaitForSync_same (p : Byte) (s : State) :
    (State.clearWaitForSync p s).slotAt p = { s.slotAt p with waitForSync := false } :=
  slotAt_writeSlot_same p _ s

theorem slotAt_clearWaitForSync_other {p q : Byte} (h : q ≠ p) (s : State) :
    (State.clearWaitForSync p s).slotAt q = s.slotAt q :=
  slotAt_writeSlot_other h _ s

end Sys2Proof.Machine
end

