-- ==== Sys2Proof/Laws/MotionBuffer.lean ====
section
/-! SUPPORT. What enqueue and tryLoadNext can do, once (41_motion_buffer.md R81, R82). -/

namespace Sys2Proof.Machine

/-- Everything enqueue can do. -/
theorem enqueue_cases (seg : Slot) (s : State) :
    (s.bufferFull = true ∧ enqueue seg s = (.full, s)) ∨
      (s.bufferFull = false ∧ enqueue seg s =
        (.ok, (s.writeSlot (nextIndex s.cfg.c s.writePosition) seg).setWritePosition
          (nextIndex s.cfg.c s.writePosition))) := by
  by_cases h : nextIndex s.cfg.c s.writePosition = s.readPosition
  · exact .inl ⟨by simp [State.bufferFull, h], by simp [enqueue, h]⟩
  · exact .inr ⟨by simp [State.bufferFull, h], by simp [enqueue, h]⟩

theorem enqueue_full {seg : Slot} {s : State} (h : s.bufferFull = true) : enqueue seg s = (.full, s) := by
  rcases enqueue_cases seg s with ⟨_, e⟩ | ⟨e, _⟩
  · exact e
  · simp [h] at e

theorem enqueue_ok {seg : Slot} {s : State} (h : s.bufferFull = false) : enqueue seg s =
    (.ok, (s.writeSlot (nextIndex s.cfg.c s.writePosition) seg).setWritePosition
      (nextIndex s.cfg.c s.writePosition)) := by
  rcases enqueue_cases seg s with ⟨e, _⟩ | ⟨_, e⟩
  · simp [h] at e
  · exact e

/-- The state tryLoadNext leaves when a slot may be loaded. -/
def afterLoad (s : State) : State :=
  { s with
    waitingForSync := false
    syncSearchPosition := if s.syncSearchPosition = s.readPosition then s.headIndex else s.syncSearchPosition
    readPosition := s.headIndex }

/-- A slot may be loaded: the buffer is not empty and its head does not wait. -/
def State.headReady (s : State) : Bool :=
  s.readPosition != s.writePosition && !(s.slotAt s.headIndex).waitForSync

theorem tryLoadNext_empty {s : State} (h : s.readPosition = s.writePosition) : tryLoadNext s = (.empty, s) := by
  simp [tryLoadNext, h]

theorem tryLoadNext_blocked {s : State} (h : s.readPosition ≠ s.writePosition)
    (hw : (s.slotAt s.headIndex).waitForSync = true) : tryLoadNext s = (.blocked, s.setWaitingForSync true) := by
  simp [tryLoadNext, h, hw]

theorem tryLoadNext_ok {s : State} (h : s.headReady = true) : tryLoadNext s = (.ok, afterLoad s) := by
  simp only [State.headReady, Bool.and_eq_true, bne_iff_ne, ne_eq, Bool.not_eq_true'] at h
  simp only [tryLoadNext, h.1, h.2, if_false, Bool.false_eq_true, followRead, setWaitingForSync_syncSearchPosition,
    setWaitingForSync_readPosition]
  by_cases e : s.syncSearchPosition = s.readPosition
  · simp [afterLoad, e, State.setReadPosition, State.setSyncSearchPosition, State.setWaitingForSync]
  · simp [afterLoad, e, State.setReadPosition, State.setWaitingForSync]

/-- Everything tryLoadNext can do. -/
theorem tryLoadNext_cases (s : State) :
    (s.readPosition = s.writePosition ∧ tryLoadNext s = (.empty, s)) ∨
      (s.readPosition ≠ s.writePosition ∧ (s.slotAt s.headIndex).waitForSync = true ∧
        tryLoadNext s = (.blocked, s.setWaitingForSync true)) ∨
      (s.headReady = true ∧ tryLoadNext s = (.ok, afterLoad s)) := by
  by_cases h : s.readPosition = s.writePosition
  · exact .inl ⟨h, tryLoadNext_empty h⟩
  · cases hw : (s.slotAt s.headIndex).waitForSync with
    | true => exact .inr (.inl ⟨h, rfl, tryLoadNext_blocked h hw⟩)
    | false =>
      have hr : s.headReady = true := by simp [State.headReady, h, hw]
      exact .inr (.inr ⟨hr, tryLoadNext_ok hr⟩)

@[simp] theorem afterLoad_slotAt (s : State) (p : Byte) : (afterLoad s).slotAt p = s.slotAt p := rfl

end Sys2Proof.Machine
end

