-- ==== Sys2Proof/Laws/Commands.lean ====
section
/-! SUPPORT. What SYNC's scan finds, and what each command can do, once (44_commands.md R121 to R129). -/

namespace Sys2Proof.Machine

/-- One slot nearer: among slots other than `p` itself, those at distance `d + 1` from `p` are those at distance
`d` from the next slot. -/
theorem distance_step {c : Nat} (h : c ≤ 256) {p q : Byte} (hp : p.toNat < c) (hq : q.toNat < c)
    (h1 : 1 ≤ distance c p q) : distance c p q = distance c (nextIndex c p) q + 1 := by
  have hne : q ≠ p := fun e => by rw [e, distance_self hp] at h1; omega
  rw [distance_from_next h hp hq hne]
  omega

/-- The scan finds nothing exactly when none of the `k` slots after `p` waits. -/
theorem scanForWaiting_none {s : State} (h2 : 2 ≤ s.cfg.c) (h : s.cfg.c ≤ 256) {k : Nat} {p : Byte}
    (hp : p.toNat < s.cfg.c) (hk : k < s.cfg.c) (hs : scanForWaiting s k p = none) :
    ∀ q : Byte, q.toNat < s.cfg.c → 1 ≤ distance s.cfg.c p q → distance s.cfg.c p q ≤ k →
      (s.slotAt q).waitForSync = false := by
  induction k generalizing p with
  | zero => intro q _ h1 h0; omega
  | succ k ih =>
    intro q hq h1 hle
    have hn := nextIndex_lt (by omega) h p
    simp only [scanForWaiting] at hs
    split at hs
    · cases hs
    · next hw =>
      have hd := distance_step h hp hq h1
      by_cases e : q = nextIndex s.cfg.c p
      · rw [e]; simpa using hw
      · have : distance s.cfg.c (nextIndex s.cfg.c p) q ≠ 0 := fun e0 =>
          e ((distance_eq_zero_iff hn hq).mp e0)
        exact ih hn (by omega) hs q hq (by omega) (by omega)

/-- The scan finds the first of the `k` slots after `p` that waits. -/
theorem scanForWaiting_some {s : State} (h2 : 2 ≤ s.cfg.c) (h : s.cfg.c ≤ 256) {k : Nat} {p r : Byte}
    (hp : p.toNat < s.cfg.c) (hk : k < s.cfg.c) (hs : scanForWaiting s k p = some r) :
    r.toNat < s.cfg.c ∧ 1 ≤ distance s.cfg.c p r ∧ distance s.cfg.c p r ≤ k ∧ (s.slotAt r).waitForSync = true ∧
      ∀ q : Byte, q.toNat < s.cfg.c → 1 ≤ distance s.cfg.c p q → distance s.cfg.c p q < distance s.cfg.c p r →
        (s.slotAt q).waitForSync = false := by
  induction k generalizing p with
  | zero => simp [scanForWaiting] at hs
  | succ k ih =>
    have hn := nextIndex_lt (by omega) h p
    simp only [scanForWaiting] at hs
    split at hs
    · next hw =>
      cases hs
      rw [distance_next h2 h hp]
      exact ⟨hn, Nat.le_refl 1, by omega, hw, fun q _ h1 hlt => by omega⟩
    · next hw =>
      obtain ⟨hr, h1, hle, hf, hmin⟩ := ih hn (by omega) hs
      have hne : r ≠ p := by
        intro e
        have : distance s.cfg.c (nextIndex s.cfg.c p) r + 1 = s.cfg.c := by
          have hlt := distance_lt (c := s.cfg.c) (by omega) (nextIndex s.cfg.c p) r
          subst e
          rw [distance_cases hn hp, nextIndex_cases h hp]
          split <;> split <;> omega
        omega
      have hd : distance s.cfg.c p r = distance s.cfg.c (nextIndex s.cfg.c p) r + 1 :=
        distance_step h hp hr (by
          have : distance s.cfg.c p r ≠ 0 := fun e0 => hne ((distance_eq_zero_iff hp hr).mp e0)
          omega)
      refine ⟨hr, by omega, by omega, hf, fun q hq hq1 hql => ?_⟩
      have hdq := distance_step h hp hq hq1
      by_cases e : q = nextIndex s.cfg.c p
      · rw [e]; simpa using hw
      · have : distance s.cfg.c (nextIndex s.cfg.c p) q ≠ 0 := fun e0 =>
          e ((distance_eq_zero_iff hn hq).mp e0)
        exact hmin q hq (by omega) (by omega)

/-- Everything SYNC's scan can do. -/
theorem releaseOldest_cases (s : State) :
    (∃ p, scanForWaiting s (distance s.cfg.c s.syncSearchPosition s.writePosition) s.syncSearchPosition = some p ∧
        releaseOldest s = (s.clearWaitForSync p).setSyncSearchPosition p) ∨
      (scanForWaiting s (distance s.cfg.c s.syncSearchPosition s.writePosition) s.syncSearchPosition = none ∧
        releaseOldest s = s.setSyncSearchPosition s.writePosition) := by
  cases h : scanForWaiting s (distance s.cfg.c s.syncSearchPosition s.writePosition) s.syncSearchPosition with
  | some p => exact .inl ⟨p, rfl, by simp [releaseOldest, h]⟩
  | none => exact .inr ⟨rfl, by simp [releaseOldest, h]⟩

theorem realignTimer_eq (s : State) :
    realignTimer s = { s with tcnt := if s.waitingForSync then 0 else s.tcnt } := by
  unfold realignTimer State.setTcnt
  split <;> rfl

@[simp] theorem realignTimer_slotAt (s : State) (p : Byte) : (realignTimer s).slotAt p = s.slotAt p := by
  rw [realignTimer_eq]; rfl

/-- What a STEP_REQUEST with one target per axis does, by enqueue's two outcomes. -/
theorem execStepRequest_cases {targets : List U24} {s : State} (h : targets.length = s.cfg.n) (time : U24)
    (key : Byte) (abs wfs : Bool) :
    (s.bufferFull = true ∧ execStepRequest targets time key abs wfs s = .next (s.sendReply 13 (s.status 0))) ∨
      (s.bufferFull = false ∧ execStepRequest targets time key abs wfs s =
        .next (((s.writeSlot (nextIndex s.cfg.c s.writePosition) (segmentOf s.cfg.sb targets time key abs wfs)).setWritePosition
          (nextIndex s.cfg.c s.writePosition)).sendReply 13
            (((s.writeSlot (nextIndex s.cfg.c s.writePosition) (segmentOf s.cfg.sb targets time key abs wfs)).setWritePosition
              (nextIndex s.cfg.c s.writePosition)).status 1))) := by
  rcases enqueue_cases (segmentOf s.cfg.sb targets time key abs wfs) s with ⟨hf, he⟩ | ⟨hf, he⟩
  · exact .inl ⟨hf, by simp [execStepRequest, h, he, statusCode]⟩
  · exact .inr ⟨hf, by simp [execStepRequest, h, he, statusCode]⟩

end Sys2Proof.Machine
end

