-- ==== Sys2Proof/Laws/Flags.lean ====
section
/-! SUPPORT. The sign, magnitude and range computations in exact integers (42_segment_loader.md R92,
43_step_generator.md R105), and what an admissible configuration gives (00_scope.md R6). -/

namespace Sys2Proof

theorem Config.wellFormed_iff {cfg : Config} : cfg.wellFormed = true ↔
    1 ≤ cfg.n ∧ 2 ≤ cfg.c ∧ cfg.c ≤ 256 ∧ cfg.sb ≤ 8 ∧ 1 ≤ cfg.timebase ∧ cfg.dirForwardLevel.length = cfg.n := by
  simp [Config.wellFormed, and_assoc]

namespace Machine

theorem fitsS32_iff {x : Int} : fitsS32 x = true ↔ -2147483648 ≤ x ∧ x < 2147483648 := by simp [fitsS32]

/-- Storing an s32 and reading it back. -/
theorem toInt_ofInt_of_fits {x : Int} (h : fitsS32 x = true) : (BitVec.ofInt 32 x).toInt = x := by
  have := fitsS32_iff.mp h
  rw [BitVec.toInt_ofInt, Int.bmod_def]
  split <;> omega

theorem slt_zero_iff {d : Word} : d.slt 0 = true ↔ d.toInt < 0 := by simp [BitVec.slt]

theorem directionOf_eq_backward_iff {d : Word} : directionOf d = .backward ↔ d.toInt < 0 := by
  unfold directionOf
  split
  · next h => simpa using slt_zero_iff.mp h
  · next h => simpa using fun e => h (slt_zero_iff.mpr e)

/-- The magnitude is the absolute value, for `-2^31` too. -/
theorem magnitudeOf_toNat (d : Word) : (magnitudeOf d).toNat = d.toInt.natAbs := by
  have hlt := d.isLt
  have hi := BitVec.toInt_eq_toNat_cond d
  unfold magnitudeOf
  split
  · next h =>
    have := slt_zero_iff.mp h
    rw [BitVec.toNat_neg]
    split at hi <;> omega
  · next h =>
    have : ¬ d.toInt < 0 := fun e => h (slt_zero_iff.mpr e)
    split at hi <;> omega

/-- The level of one axis's `dir` output (10_state.md R25). -/
theorem dirLevels_getElem? (s : State) (i : Nat) :
    s.dirLevels[i]? = (s.axes[i]?).map fun a => dirLevel s.cfg i a.direction := by
  simp [State.dirLevels]

@[simp] theorem dirLevels_length (s : State) : s.dirLevels.length = s.axes.length := by simp [State.dirLevels]

/-- The level a delta's direction drives (42_segment_loader.md R90). -/
theorem dirLevel_directionOf (cfg : Config) (i : Nat) (d : Word) : dirLevel cfg i (directionOf d) =
    if d.toInt < 0 then !(cfg.dirForwardLevel.getD i true) else cfg.dirForwardLevel.getD i true := by
  unfold directionOf
  by_cases h : d.toInt < 0
  · rw [if_pos (slt_zero_iff.mpr h), if_pos h, dirLevel]
  · rw [if_neg (fun e => h (slt_zero_iff.mp e)), if_neg h, dirLevel]

end Machine

end Sys2Proof
end

