-- ==== Sys2Proof/Laws/PerInstr.lean ====
section
/-! SUPPORT. Laws stated of every instruction as syntax, one lemma per constructor (LAWS.json). -/

namespace Sys2Proof.Laws.EncodedLength

/-- The encoding of a well-formed command has the port's payload length (30_encoding.md R76), on one of R62's
seven ports (none for ports 11 and 16: log 17). -/
def Statement (i : Instr) : Prop :=
  ∀ n, i.wellFormed n = true →
    (encode i).2.length = payloadLength n i ∧ (encode i).1.toNat ∈ [8, 11, 12, 13, 14, 15, 16]

theorem sync : Statement .sync := fun _ _ => ⟨rfl, by decide⟩

theorem vrefExternal : Statement .vrefExternal := fun _ _ => ⟨rfl, by decide⟩

theorem enableDrivers (b : Byte) : Statement (.enableDrivers b) :=
  fun _ _ => ⟨rfl, by simp [encode]⟩

theorem stepRequest (targets : List U24) (time : U24) (key : Byte) (abs wfs : Bool) :
    Statement (.stepRequest targets time key abs wfs) := by
  intro n h
  have hn : targets.length = n := by simpa [Instr.wellFormed] using h
  refine ⟨?_, by simp [encode]⟩
  simp [encode, payloadLength, targetBytes_length, hn, -List.length_flatMap]

theorem getPosition : Statement .getPosition := fun _ _ => ⟨rfl, by decide⟩

theorem getStatus : Statement .getStatus := fun _ _ => ⟨rfl, by decide⟩

theorem pwmExternal : Statement .pwmExternal := fun _ _ => ⟨rfl, by decide⟩

end Sys2Proof.Laws.EncodedLength
end

