-- ==== Sys2Proof/Laws/StepGenerator.lean ====
section
/-! SUPPORT. What the loader and TICK can do, once (42_segment_loader.md R90, 43_step_generator.md R100). -/

namespace Sys2Proof.Machine

/-! ### One axis -/

theorem crosses_iff {threshold : Word} {a : Axis} :
    crosses threshold a = true ↔ (threshold.toNat : Int) < accumSum a := decide_eq_true_iff

/-- An accumulator never leaves s32 downwards but by the subtraction (43_step_generator.md R105). -/
theorem accumSum_ge (a : Axis) : -2147483648 ≤ accumSum a := by
  have := BitVec.le_toInt a.accum
  simp only [accumSum]
  omega

/-- When a firing that does not overflow leaves the exact accumulator. -/
theorem stepAxis_accum {threshold totalTime : Word} {a : Axis} (h : accumOverflows threshold totalTime a = false) :
    (stepAxis threshold totalTime a).accum.toInt = accumNext threshold totalTime a := by
  have hf : fitsS32 (accumNext threshold totalTime a) = true := by
    simp only [accumOverflows, Bool.or_eq_false_iff, Bool.not_eq_false'] at h
    exact h.2
  unfold stepAxis
  split <;> exact toInt_ofInt_of_fits hf

@[simp] theorem stepAxis_targetSteps (threshold totalTime : Word) (a : Axis) :
    (stepAxis threshold totalTime a).targetSteps = a.targetSteps := by
  unfold stepAxis; split <;> rfl

@[simp] theorem stepAxis_direction (threshold totalTime : Word) (a : Axis) :
    (stepAxis threshold totalTime a).direction = a.direction := by
  unfold stepAxis; split <;> rfl

@[simp] theorem loadAxis_position (seg : Slot) (i : Nat) (a : Axis) : (loadAxis seg i a).position = a.position := rfl

@[simp] theorem loadAxis_accum (seg : Slot) (i : Nat) (a : Axis) : (loadAxis seg i a).accum = 0 := rfl

/-! ### The pulse -/

/-- The outputs a firing's pulse adds: none when no axis is marked (43_step_generator.md R103). -/
def pulseOutputs (mask : List Bool) : List Output := if mask.any id then [.pulse mask] else []

theorem emitPulse_eq (mask : List Bool) (s : State) :
    s.emitPulse mask = { s with out := s.out ++ pulseOutputs mask } := by
  unfold State.emitPulse pulseOutputs
  split
  · rfl
  · simp

/-- A stepping firing, field by field. -/
theorem stepFiring_eq (s : State) :
    stepFiring s =
      { s with
        timeRemaining := s.timeRemaining - 1
        axes := s.axes.map (stepAxis s.bresenhamThreshold s.totalTime)
        out := s.out ++ pulseOutputs (s.axes.map (crosses s.bresenhamThreshold)) } := by
  rw [stepFiring, emitPulse_eq]

theorem stepFiring_axes (s : State) :
    (stepFiring s).axes = s.axes.map (stepAxis s.bresenhamThreshold s.totalTime) := by rw [stepFiring_eq]

theorem stepFiring_timeRemaining (s : State) : (stepFiring s).timeRemaining = s.timeRemaining - 1 := by
  rw [stepFiring_eq]

theorem stepFiring_slotAt (s : State) (p : Byte) : (stepFiring s).slotAt p = s.slotAt p := by
  rw [stepFiring_eq]; rfl

/-! ### The loader -/

/-- A load, field by field. -/
theorem loadSegment_eq (s : State) :
    loadSegment s =
      { s with
        axes := s.axes.mapIdx (loadAxis (s.slotAt s.readPosition))
        segmentKey := (s.slotAt s.readPosition).segmentKey
        bresenhamThreshold := (s.slotAt s.readPosition).segmentTime / 2
        totalTime := (s.slotAt s.readPosition).segmentTime
        timeRemaining := (s.slotAt s.readPosition).segmentTime
        driversEnabled := true
        out := s.out ++ [.dir (armSegment (s.slotAt s.readPosition) s).dirLevels, .enableN false] } := by
  simp [loadSegment, driveDir, State.emit, State.setDriversEnabled, armSegment]

/-! ### Part 1 -/

theorem stepPart_idle {s : State} (h : s.timeRemaining = 0) : stepPart s = .next s := by
  rw [stepPart, if_pos h]

theorem stepPart_running {s : State} (h : s.timeRemaining ≠ 0)
    (ho : ∀ a ∈ s.axes, accumOverflows s.bresenhamThreshold s.totalTime a = false) :
    stepPart s = .next (stepFiring s) := by
  have : ¬ s.axes.any (accumOverflows s.bresenhamThreshold s.totalTime) = true := by
    simp only [List.any_eq_true, not_exists, not_and]
    intro a ha e
    simp [ho a ha] at e
  rw [stepPart, if_neg h, if_neg this]

/-- Everything part 1 can do when it answers a next state. -/
theorem stepPart_next {s t : State} (h : stepPart s = .next t) :
    (s.timeRemaining = 0 ∧ t = s) ∨
      (s.timeRemaining ≠ 0 ∧ (∀ a ∈ s.axes, accumOverflows s.bresenhamThreshold s.totalTime a = false) ∧
        t = stepFiring s) := by
  unfold stepPart at h
  split at h
  · next h0 => cases h; exact .inl ⟨h0, rfl⟩
  · next h0 =>
    split at h
    · cases h
    · next ho =>
      cases h
      refine .inr ⟨h0, fun a ha => ?_, rfl⟩
      simpa using fun e => ho (List.any_eq_true.mpr ⟨a, ha, e⟩)

/-- Part 1 writes the countdown, the axes and the outputs, and nothing else. -/
theorem stepPart_frame {s t : State} (h : stepPart s = .next t) :
    t = { s with timeRemaining := t.timeRemaining, axes := t.axes, out := t.out } := by
  rcases stepPart_next h with ⟨_, rfl⟩ | ⟨_, _, rfl⟩
  · rfl
  · rw [stepFiring_eq]

/-! ### Part 2 -/

theorem loadPart_running {s : State} (h : s.timeRemaining ≠ 0) : loadPart s = s := by
  rw [loadPart, if_neg h]

theorem loadPart_empty {s : State} (h : s.readPosition = s.writePosition) : loadPart s = s := by
  simp [loadPart, tryLoadNext_empty h]

theorem loadPart_blocked {s : State} (h0 : s.timeRemaining = 0) (h : s.readPosition ≠ s.writePosition)
    (hw : (s.slotAt s.headIndex).waitForSync = true) : loadPart s = s.setWaitingForSync true := by
  simp [loadPart, h0, tryLoadNext_blocked h hw]

theorem loadPart_ok {s : State} (h0 : s.timeRemaining = 0) (h : s.headReady = true) :
    loadPart s = loadSegment (afterLoad s) := by
  simp [loadPart, h0, tryLoadNext_ok h]

/-- Everything part 2 can do. -/
theorem loadPart_cases (s : State) :
    loadPart s = s ∨
      (s.timeRemaining = 0 ∧ s.readPosition ≠ s.writePosition ∧ (s.slotAt s.headIndex).waitForSync = true ∧
        loadPart s = s.setWaitingForSync true) ∨
      (s.timeRemaining = 0 ∧ s.headReady = true ∧ loadPart s = loadSegment (afterLoad s)) := by
  by_cases h0 : s.timeRemaining = 0
  · rcases tryLoadNext_cases s with ⟨h, _⟩ | ⟨h, hw, _⟩ | ⟨h, _⟩
    · exact .inl (loadPart_empty h)
    · exact .inr (.inl ⟨h0, h, hw, loadPart_blocked h0 h hw⟩)
    · exact .inr (.inr ⟨h0, h, loadPart_ok h0 h⟩)
  · exact .inl (loadPart_running h0)

/-! ### TICK -/

theorem tick_of_stepPart {s t : State} (h : stepPart s = .next t) : tick s = .next (loadPart t) := by
  simp [tick, h]

/-- Everything TICK can do when it answers a next state: part 1, then part 2. -/
theorem tick_next {s u : State} (h : tick s = .next u) : ∃ t, stepPart s = .next t ∧ u = loadPart t := by
  unfold tick at h
  split at h <;> cases h
  exact ⟨_, ‹_›, rfl⟩

end Sys2Proof.Machine
end

