-- ==== Sys2Proof/Laws/Run.lean ====
section
/-! SUPPORT. What a step does on each event, and runs of the machine, once (20_memory.md R45, R50; log 5). -/

namespace Sys2Proof.Machine

theorem core_run_zero (s : State) : core.run 0 s = .next s := rfl

/-- A run takes one step and goes on from where it led. -/
theorem run_of_step {M : Host.Core} {s t : M.State} (h : M.step s = .next t) (k : Nat) : M.run (k + 1) s = M.run k t := by
  simp [Host.Core.run, h]

theorem run_one {M : Host.Core} (s : M.State) : M.run 1 s = M.step s := by
  simp only [Host.Core.run]
  cases M.step s <;> rfl

theorem core_run_of_step {s t : State} (h : step s = .next t) (k : Nat) : core.run (k + 1) s = core.run k t :=
  run_of_step (M := core) h k

theorem core_run_one (s : State) : core.run 1 s = step s := run_one (M := core) s

/-- A presented command, unfolded to its decoding. -/
theorem step_command {s : State} {port : Byte} {P : List Byte} {rest : List Event}
    (h : s.inputs = .command port P :: rest) : step s = runCommand port P { s with inputs := rest, out := [] } := by
  simp [step, State.nextEvent, State.takeEvent, h, runEvent]

theorem step_reset {s : State} {rest : List Event} (h : s.inputs = .reset :: rest) :
    step s = .next (resetEvent { s with inputs := rest, out := [] }) := by
  simp [step, State.nextEvent, State.takeEvent, h, runEvent]

/-- A clock cycle, whether it is presented or the clock runs on. -/
theorem step_clk {s : State} (h : s.nextEvent = .clk) : step s = clkCycle s.takeEvent := by
  rw [step, h, runEvent]

theorem clkCycle_counts {s : State} (h : s.tcnt + 1 ≠ s.cfg.timebase) : clkCycle s = .next (s.setTcnt (s.tcnt + 1)) := by
  rw [clkCycle, if_neg h]

theorem clkCycle_fires {s : State} (h : s.tcnt + 1 = s.cfg.timebase) : clkCycle s = tick (s.setTcnt 0) := by
  rw [clkCycle, if_pos h]

/-- Everything a step can do when it answers a next state. -/
theorem step_next {s t : State} (h : step s = .next t) :
    (s.nextEvent = .reset ∧ t = resetEvent s.takeEvent) ∨
      (s.nextEvent = .clk ∧ s.tcnt + 1 ≠ s.cfg.timebase ∧ t = s.takeEvent.setTcnt (s.tcnt + 1)) ∨
      (s.nextEvent = .clk ∧ s.tcnt + 1 = s.cfg.timebase ∧ tick (s.takeEvent.setTcnt 0) = .next t) ∨
      (∃ port P, s.nextEvent = .command port P ∧ decode s.cfg.n port P = .error .unknownPort ∧ t = s.takeEvent) ∨
      (∃ port P i, s.nextEvent = .command port P ∧ decode s.cfg.n port P = .ok i ∧ exec i s.takeEvent = .next t) := by
  cases he : s.nextEvent with
  | reset =>
    rw [step, he] at h
    cases h
    exact .inl ⟨rfl, rfl⟩
  | clk =>
    rw [step_clk he] at h
    by_cases hl : s.tcnt + 1 = s.cfg.timebase
    · rw [clkCycle_fires (s := s.takeEvent) hl] at h
      exact .inr (.inr (.inl ⟨rfl, hl, h⟩))
    · rw [clkCycle_counts (s := s.takeEvent) hl] at h
      cases h
      exact .inr (.inl ⟨rfl, hl, rfl⟩)
  | command port P =>
    rw [step, he] at h
    simp only [runEvent, runCommand] at h
    split at h
    · next i hd => exact .inr (.inr (.inr (.inr ⟨port, P, i, rfl, hd, h⟩)))
    · next hd =>
      cases h
      exact .inr (.inr (.inr (.inl ⟨port, P, rfl, hd, rfl⟩)))
    · cases h
    · cases h

end Sys2Proof.Machine
end

