-- ==== Sys2Proof/Tests/Slice0.lean ====
section
/-! SUPPORT. Tests: expected values are those of 95_test_vectors.md and 30_encoding.md, or worked out by hand from the
rule named; and for every statement with hypotheses a concrete input that meets them all. -/

open Sys2Proof Sys2Proof.Machine

namespace Sys2Proof.Tests

/-! ### Small states -/

/-- The next state, where there is one. -/
def nextOf (o : Host.Outcome State Fault Refusal) : Option State :=
  match o with
  | .next s => some s
  | .fault _ => none
  | .refused _ => none

/-- The refusal, where there is one. -/
def refusalOf (o : Host.Outcome State Fault Refusal) : Option Refusal :=
  match o with
  | .next _ => none
  | .fault _ => none
  | .refused r => some r

/-- The fault, where there is one. -/
def faultOf (o : Host.Outcome State Fault Refusal) : Option Fault :=
  match o with
  | .next _ => none
  | .fault r => some r
  | .refused _ => none

/-- The 1-axis and the 3-axis node after RESET. -/
def one : State := { State.reset with out := [] }
def three : State := { State.resetOf Config.threeAxis 0 with out := [] }

/-- A 1-axis segment. -/
def segment (target time : Word) (key : Byte) (abs wfs : Bool) : Slot := ⟨[target], time, key, abs, wfs⟩

/-- The 1-axis node at `r/w/ss`. -/
def at3 (r w ss : Byte) : State := { one with readPosition := r, writePosition := w, syncSearchPosition := ss }

/-- Slots put into the RAM. -/
def withSlots (s : State) (slots : Memory) : State := { s with slots := slots }

/-- The 1-axis node `r/w = 0/1` with `seg` queued. -/
def queued (seg : Slot) : State := withSlots (at3 0 1 0) [(1, seg)]

/-- The 1-axis node inside a segment: `K` steps, time `T`, `left` firings to come. -/
def running (K T left accum : Word) : State :=
  { one with
    axes := [{ targetSteps := K, stepsRemaining := K, accum := accum, direction := .forward, position := 0 }]
    totalTime := T
    bresenhamThreshold := T / 2
    timeRemaining := left }

/-- One command on a node that has nothing else to do. -/
def send (port : Byte) (P : List Byte) (s : State) : Host.Outcome State Fault Refusal := step (s.present port P)

/-- The invariants of a state whose SYNC search has not left `readPosition`, as a check. -/
def plain (s : State) : Bool :=
  s.cfg.wellFormed && decide (s.axes.length = s.cfg.n) && decide (s.readPosition.toNat < s.cfg.c) &&
    decide (s.writePosition.toNat < s.cfg.c) && decide (s.syncSearchPosition = s.readPosition) &&
    decide (s.timeRemaining.toNat ≤ s.totalTime.toNat) &&
    decide (s.bresenhamThreshold.toNat = s.totalTime.toNat / 2) && decide (s.totalTime.toNat < 16777216) &&
    decide (s.tcnt < s.cfg.timebase) && Memory.wf s.cfg.n s.cfg.c s.slots &&
    (!s.waitingForSync || decide (s.readPosition ≠ s.writePosition)) &&
    (!s.waitingForSync || decide (s.timeRemaining = 0))

theorem inv_of_plain {s : State} (h : plain s = true) : s.Inv := by
  simp only [plain, Bool.and_eq_true, Bool.or_eq_true, Bool.not_eq_true', decide_eq_true_eq] at h
  obtain ⟨⟨⟨⟨⟨⟨⟨⟨⟨⟨⟨h1, h2⟩, h3⟩, h4⟩, h5⟩, h6⟩, h7⟩, h8⟩, h9⟩, h10⟩, h11⟩, h12⟩ := h
  have hz : distance s.cfg.c s.readPosition s.readPosition = 0 := by
    simp [distance]
  refine ⟨h1, h2, h3, h4, by rw [h5]; exact h3, by rw [h5, hz]; exact Nat.zero_le _, ?_, h6, h7, h8, h9, h10, ?_, ?_⟩
  · intro p _ h1 hle
    rw [h5, hz] at hle
    omega
  · intro e; simpa [e] using h11
  · intro e; simpa [e] using h12

/-! ### WellFormed refuses -/

/-- 30_encoding.md R67: a target too few, a target too many. -/
theorem test_wf_targets : (Instr.stepRequest [] 1 1 false false).wellFormed 1 = false ∧
    (Instr.stepRequest [1, 2] 1 1 false false).wellFormed 1 = false ∧
    (Instr.stepRequest [1, 2] 1 1 false false).wellFormed 2 = true := by decide

/-- 00_scope.md R6 and R5, one bound after the other, and the two nodes of R5. -/
theorem test_wf_config : ({ Config.oneAxis with n := 0, dirForwardLevel := [] } : Config).wellFormed = false ∧
    ({ Config.oneAxis with c := 1 } : Config).wellFormed = false ∧
    ({ Config.oneAxis with c := 257 } : Config).wellFormed = false ∧
    ({ Config.oneAxis with c := 256 } : Config).wellFormed = true ∧
    ({ Config.oneAxis with sb := 9 } : Config).wellFormed = false ∧
    ({ Config.oneAxis with timebase := 0 } : Config).wellFormed = false ∧
    ({ Config.oneAxis with dirForwardLevel := [] } : Config).wellFormed = false ∧
    Config.oneAxis.wellFormed = true ∧ Config.threeAxis.wellFormed = true := by decide

/-- 10_state.md R24, 20_memory.md R40: the slot RAM's form, broken in each way. -/
theorem test_wf_slots : Memory.wf 1 48 [(1, segment 4 4 1 false false), (0, segment 4 4 1 false false)] = false ∧
    Memory.wf 1 48 [(48, segment 4 4 1 false false)] = false ∧
    Memory.wf 1 48 [(0, segment 4 16777216 1 false false)] = false ∧
    Memory.wf 1 48 [(0, ⟨[], 4, 1, false, false⟩)] = false ∧
    Memory.wf 1 48 [(0, segment 4 16777215 1 false false), (47, segment 4 4 1 false false)] = true := by decide

/-! ### Decoding, words written out from the encodings (30_encoding.md section 8) -/

theorem test_decode_sync : decode 1 0x08 [] = .ok .sync ∧ decode 1 0x08 [0x99] = .ok .sync := by decide

theorem test_decode_external : decode 1 0x0B [0x01, 0x02] = .ok .vrefExternal ∧
    decode 3 0x10 [] = .ok .pwmExternal := by decide

theorem test_decode_enableDrivers : decode 1 0x0C [0x00] = .ok (.enableDrivers 0) ∧
    decode 1 0x0C [0xFF] = .ok (.enableDrivers 255) ∧ decode 1 0x0C [] = .error .shortPayload := by decide

/-- 95_test_vectors.md section 2.7: `0D : FF FF FF 04 00 00 A2 00 01`. -/
theorem test_decode_stepRequest : decode 1 0x0D [0xFF, 0xFF, 0xFF, 0x04, 0x00, 0x00, 0xA2, 0x00, 0x01] =
    .ok (.stepRequest [-1] 4 0xA2 false true) := by decide

/-- P2 of 95_test_vectors.md: three targets, little-endian, axis 0 first. -/
theorem test_decode_stepRequest_three : decode 3 0x0D
    [0x03, 0x00, 0x00, 0xFE, 0xFF, 0xFF, 0x01, 0x00, 0x00, 0x0C, 0x00, 0x00, 0x05, 0x00, 0x00] =
    .ok (.stepRequest [3, -2, 1] 12 5 false false) := by decide

/-- 95_test_vectors.md section 2.7: the refused forms. -/
theorem test_decode_rejects : decode 1 13 [0xE8, 0x03, 0x00, 0x10, 0x27, 0x00, 0x07, 0x00] = .error .shortPayload ∧
    decode 3 13 [0xE8, 0x03, 0x00, 0x10, 0x27, 0x00, 0x07, 0x00, 0x00] = .error .shortPayload ∧
    decode 1 13 [0xE8, 0x03, 0x00, 0x10, 0x27, 0x00, 0x07, 0x02, 0x00] = .error .reservedFlagValue ∧
    decode 1 13 [0xE8, 0x03, 0x00, 0x10, 0x27, 0x00, 0x07, 0x00, 0xFF] = .error .reservedFlagValue ∧
    [0, 7, 9, 10, 17, 255].map (fun p => decode 1 p []) = List.replicate 6 (.error .unknownPort) := by decide

theorem test_decode_replies : decode 1 0x0E [] = .ok .getPosition ∧ decode 1 0x0F [0x55] = .ok .getStatus := by decide

/-- The table word of a STEP_REQUEST: the port in bits 7..0, then the payload's bytes. -/
theorem test_decode_table_word : decodeTableWord 80 0x0001A2000004FFFFFF0D = some (.stepRequest [-1] 4 0xA2 true false) ∧
    decodeTableWord 80 0x0100A2000004FFFFFF0D = some (.stepRequest [-1] 4 0xA2 false true) ∧
    decodeTableWord 8 0x0F = some .getStatus ∧ decodeTableWord 16 0x010C = some (.enableDrivers 1) := by decide

/-- 95_test_vectors.md section 2.1, the values at the edges of s24. -/
theorem test_codec : [8388607, -8388608, 8388608, -8388609, 16777221].map wrS24 =
    [[0xFF, 0xFF, 0x7F], [0x00, 0x00, 0x80], [0x00, 0x00, 0x80], [0xFF, 0xFF, 0x7F], [0x05, 0x00, 0x00]] ∧
    rdS24 [0x00, 0x00, 0x80] 0 = -8388608 ∧ rdS24 [0xC0, 0x1D, 0xFE] 0 = -123456 ∧ rdU16 [0x34, 0x12] 0 = 0x1234 := by
  decide

/-! ### Commands -/

/-- 95_test_vectors.md section 2.7. -/
theorem test_enableDrivers : (nextOf (send 12 [0xFF] one)).map (fun s => (s.driversEnabled, s.enableN, s.replies)) =
    some (true, false, [(12, [])]) ∧
    (nextOf (send 12 [0x00, 0x55] { one with driversEnabled := true })).map (fun s => (s.driversEnabled, s.enableN)) =
      some (false, true) := by decide

/-- 95_test_vectors.md section 2.7: target -1 is -4 microsteps in slot 1. -/
theorem test_stepRequest : (nextOf (send 13 [0xFF, 0xFF, 0xFF, 0x04, 0x00, 0x00, 0xA2, 0x00, 0x01] one)).map
    (fun s => (s.writePosition, s.slots, s.replies)) =
    some (1, [(1, segment (-4) 4 0xA2 false true)], [(13, [1, 0, 0, 0, 0, 0, 1])]) := by decide

/-- Section 1.2 S4: with 47 segments queued the next is turned away. -/
theorem test_stepRequest_full : (nextOf (send 13 [0x01, 0x00, 0x00, 0x04, 0x00, 0x00, 0x30, 0x00, 0x00] (at3 0 47 0))).map
    (fun s => (s.writePosition, s.slots, s.replies)) = some (47, [], [(13, [0, 0, 0, 0, 0, 0, 0x2F])]) := by decide

/-- Section 2.2, `SB = 2`: 7 is 1, -5 is -2, -1200 is -300, `2^25` reads back as `-2^23`. -/
theorem test_getPosition : [7, -5, -1200, 33554432].map (fun p =>
    ({ one with axes := [{ Axis.reset with position := p }] } : State).positionPayload) =
    [[0x01, 0x00, 0x00], [0xFE, 0xFF, 0xFF], [0xD4, 0xFE, 0xFF], [0x00, 0x00, 0x80]] := by decide

theorem test_getPosition_reply : (nextOf (send 14 [] three)).map State.replies =
    some [(14, [0, 0, 0, 0, 0, 0, 0, 0, 0])] := by decide

/-- Section 2.7: `timeRemaining` 70000 is `70 11 01`. -/
theorem test_getStatus : (nextOf (send 15 [] { at3 47 0 47 with segmentKey := 0xFE, timeRemaining := 70000 })).map
    State.replies = some [(15, [0x01, 0xFE, 0x70, 0x11, 0x01, 0x2F, 0x00])] := by decide

/-- Section 2.7's SYNC table, rows 1, 3, 5 and the wrap. -/
theorem test_sync : (nextOf (send 8 [] { withSlots (at3 0 2 0) [(1, segment 4 4 1 false true), (2, segment 4 4 2 false true)]
      with waitingForSync := true, tcnt := 0 })).map
    (fun s => (s.syncSearchPosition, (s.slotAt 1).waitForSync, (s.slotAt 2).waitForSync, s.waitingForSync)) =
      some (1, false, true, true) ∧
    (nextOf (send 8 [] (withSlots (at3 1 4 1) [(2, segment 4 4 1 false false), (3, segment 4 4 1 false false),
      (4, segment 4 4 1 false true)]))).map (fun s => (s.syncSearchPosition, (s.slotAt 4).waitForSync)) =
      some (4, false) := by decide

theorem test_sync_wrap : (nextOf (send 8 [] (withSlots (at3 46 1 47) [(0, segment 4 4 1 false true),
      (47, segment 4 4 1 false false)]))).map (fun s => (s.syncSearchPosition, (s.slotAt 0).waitForSync)) =
      some (0, false) ∧
    nextOf (send 8 [] three) = some three := by decide

/-- Section 2.7: ports 11 and 16, and ports of nobody. -/
theorem test_ports_without_effect : [0x0B, 0x10, 0x00, 0x07, 0x09, 0x11, 0xFF].map
    (fun p => nextOf (send p [0x01] one)) = List.replicate 7 (some one) := by decide

/-- Section 2.7: refused commands. -/
theorem test_refusals : refusalOf (send 12 [] one) = some .shortPayload ∧
    refusalOf (send 13 [0xE8, 0x03, 0x00, 0x10, 0x27, 0x00, 0x07, 0x02, 0x00] one) = some .reservedFlagValue := by decide

/-! ### TICK and the other events -/

/-- Section 2.4: absolute backward, and the D11 wrap. -/
theorem test_loadAxis : loadAxis (segment 800 5000 1 true false) 0 { Axis.reset with position := 2000 } =
      ⟨1200, 1200, 0, .backward, 2000⟩ ∧
    loadAxis (segment 0x80000000 100 1 true false) 0 { Axis.reset with position := 0x7FFFFFFF } =
      ⟨1, 1, 0, .forward, 0x7FFFFFFF⟩ := by decide

/-- Section 2.4: an odd time halves downwards, and the load enables the drivers. -/
theorem test_load : (nextOf (tick (queued (segment 4 9 0x33 false false)))).map (fun s =>
    ((s.bresenhamThreshold, s.timeRemaining, s.segmentKey), (s.readPosition, s.driversEnabled, s.out))) =
    some ((4, 9, 0x33), (1, true, [.dir [true], .enableN false])) := by decide

/-- Section 2.4 and 10_state.md R25: a negative delta drives `dir` to the complement of the forward level, for either
polarity. -/
theorem test_load_dir : (nextOf (tick (queued (segment (-4) 9 1 false false)))).map State.out =
      some [.dir [false], .enableN false] ∧
    (nextOf (tick { queued (segment (-4) 9 1 false false) with
      cfg := { Config.oneAxis with dirForwardLevel := [false] } })).map State.out =
      some [.dir [true], .enableN false] := by decide

/-- Section 2.5: equality with the threshold is no step (`K = 2`, `T = 4`), one more is (`K = 3`, `T = 5`). -/
theorem test_tick_strict : (nextOf (tick (running 2 4 4 0))).map (fun s => (s.axes.map Axis.accum, s.out)) =
      some ([2], []) ∧
    (nextOf (tick (running 3 5 5 0))).map (fun s => (s.axes.map Axis.accum, s.axes.map Axis.position, s.out)) =
      some ([-2], [1], [.pulse [true]]) := by decide

/-- P2 of 95_test_vectors.md, TICK 2: axes 0 and 1 of three pulse together. -/
theorem test_tick_three : (nextOf (tick { three with
      axes := [⟨12, 12, 0, .forward, 0⟩, ⟨8, 8, 0, .backward, 0⟩, ⟨4, 4, 0, .forward, 0⟩]
      totalTime := 12
      bresenhamThreshold := 6
      timeRemaining := 12 })).map (fun s => (s.axes, s.stepMask)) =
    some ([⟨12, 11, 0, .forward, 1⟩, ⟨8, 7, -4, .backward, -1⟩, ⟨4, 4, 4, .forward, 0⟩], [true, true, false]) := by decide

/-- Section 2.6: `K = 2^31 - 1` faults in the second firing, not in the first. -/
theorem test_tick_overflow : faultOf (tick (running 0x7FFFFFFF 16777215 16777214 2130706432)) = some .accumulatorOverflow ∧
    (nextOf (tick (running 0x7FFFFFFF 16777215 16777215 0))).map (fun s => s.axes.map Axis.accum) =
      some [2130706432] := by decide

/-- Section 2.3: a waiting head blocks. -/
theorem test_tick_blocked : (nextOf (tick (queued (segment 4 4 1 false true)))).map
    (fun s => (s.waitingForSync, s.readPosition, s.out)) = some (true, 0, []) := by decide

/-- 60_exceptions.md R150: two clk cycles a TICK. -/
theorem test_clk : (nextOf (step { queued (segment 4 4 1 false false) with
      cfg := { Config.oneAxis with timebase := 2 } })).map (fun s => (s.tcnt, s.timeRemaining)) = some (1, 0) ∧
    (nextOf (step { queued (segment 4 4 1 false false) with
      cfg := { Config.oneAxis with timebase := 2 }, tcnt := 1 })).map (fun s => (s.tcnt, s.timeRemaining)) =
      some (0, 4) := by decide

/-- 70_reset_and_hazards.md R160: RESET inside a segment. -/
theorem test_reset : (nextOf (step { running 4 8 5 2 with inputs := [.reset], writePosition := 3 })).map (fun s =>
    (s.axes, s.timeRemaining, s.writePosition, s.out)) =
    some ([Axis.reset], 0, 0, [.dir [true], .enableN true]) := by decide

/-! ### Inputs that meet the hypotheses of each statement

`wit_X` is for the statement `X`; the values are the ends of the ranges the clauses divide. -/

/-- A running axis, mid-segment: `K = 3`, `T = 5`, one firing done (section 2.5). -/
def midway : State :=
  { one with axes := [⟨3, 2, -2, .forward, 1⟩], totalTime := 5, bresenhamThreshold := 2, timeRemaining := 4 }

/-- The last firing of the same segment (section 2.5: accumulator 2, one step left). -/
def last (slots : Memory) (w : Byte) : State :=
  { withSlots (at3 0 w 0) slots with
    axes := [⟨3, 1, 2, .forward, 2⟩], totalTime := 5, bresenhamThreshold := 2, timeRemaining := 1 }

theorem axes_inContract {s : State} {a : Axis} (h : s.axes = [a])
    (hc : a.InContract s.totalTime.toNat s.timeRemaining.toNat) : s.InContract := by
  intro b hb
  rw [h, List.mem_singleton] at hb
  rw [hb]
  exact hc

theorem axes_headInContract {s : State} {a : Axis} (h : s.axes = [a])
    (hc : (magnitudeOf (axisDelta (s.slotAt s.headIndex) 0 a.position)).toNat ≤
      (s.slotAt s.headIndex).segmentTime.toNat) : s.HeadInContract := by
  intro i b hb
  rw [h] at hb
  cases i with
  | zero => cases hb; exact hc
  | succ i => simp at hb

theorem wit_DecodeOfEncode : (Instr.stepRequest [-0x800000#24] 0xFFFFFF 255 true true).wellFormed 1 = true ∧
    (Instr.stepRequest [] 0 0 false false).wellFormed 0 = true := by decide

theorem wit_EncodeOfDecode : decode 1 13 [0, 0, 0x80, 0xFF, 0xFF, 0xFF, 255, 1, 1, 0xAA] =
    .ok (.stepRequest [-0x800000#24] 0xFFFFFF 255 true true) := by decide

/-- Each clause of the signed codec at its ends, and one value beyond each. -/
theorem wit_SignedCodecRoundTrip : (-8388608 : Int) ≤ (8388607 : Word).toInt ∧ (8388607 : Word).toInt ≤ 8388607 ∧
    (-8388608 : Int) ≤ (-8388608 : Word).toInt ∧ ¬ (8388608 : Word).toInt ≤ 8388607 ∧
    ¬ (-8388608 : Int) ≤ (-8388609 : Word).toInt ∧ rdS24 (wrS24 8388607) 0 = 8388607 ∧
    (rdU24 [0xFF, 0xFF, 0x7F] 0).getLsbD 23 = false ∧ (rdU24 [0x00, 0x00, 0x80] 0).getLsbD 23 = true := by decide

theorem wit_TargetScalingIsExact : 8 ≤ 8 ∧ (scaleTarget 8 0x800000).toInt = -2147483648 := by decide

theorem wit_EnqueueWritesOneSlotOrNothing : (enqueue (segment 1 1 1 false false) (at3 0 46 0)).1 = .ok ∧
    (enqueue (segment 1 1 1 false false) (at3 0 47 0)).1 = .full ∧ (0 : Byte) ≠ nextIndex 48 46 := by decide

theorem wit_EnqueueSparesLiveSlots : (at3 1 47 1).Inv ∧ (enqueue (segment 1 1 1 false false) (at3 1 47 1)).1 = .ok :=
  ⟨inv_of_plain (by decide), by decide⟩

theorem wit_FullnessIsOccupancy : (at3 0 47 0).Inv ∧ (at3 0 47 0).bufferFull = true ∧ (at3 5 5 5).Inv ∧
    (at3 5 5 5).bufferEmpty = true := ⟨inv_of_plain (by decide), by decide, inv_of_plain (by decide), by decide⟩

theorem wit_TryLoadNextOutcomes : (at3 5 5 5).readPosition = (at3 5 5 5).writePosition ∧
    (at3 0 1 0).readPosition ≠ (at3 0 1 0).writePosition ∧
    ((queued (segment 1 1 1 false true)).slotAt (nextIndex 48 0)).waitForSync = true ∧
    ((queued (segment 1 1 1 false false)).slotAt (nextIndex 48 0)).waitForSync = false := by decide

/-- The head is queued; a command of port 8 clears its flag, and a TICK loads it. -/
theorem wit_QueuedSegmentsSurviveAStep : (queued (segment 1 1 1 false true)).Inv ∧
    (queued (segment 1 1 1 false true)).Queued 1 ∧
    (nextOf (send 8 [] (queued (segment 1 1 1 false true)))).map (fun s => (s.slotAt 1).waitForSync) = some false ∧
    (queued (segment 1 1 1 false false)).Inv ∧ (queued (segment 1 1 1 false false)).nextEvent ≠ .reset ∧
    (nextOf (step (queued (segment 1 1 1 false false)))).map State.readPosition = some 1 :=
  ⟨inv_of_plain (by decide), ⟨by decide, by decide, by decide⟩, by decide, inv_of_plain (by decide), by decide, by decide⟩

theorem wit_EveryLoadWakesTheDrivers : nextOf (stepPart (last [(1, segment 4 9 1 false false)] 1)) ≠ none ∧
    (nextOf (tick (last [(1, segment 4 9 1 false false)] 1))).map State.driversEnabled = some true ∧
    (nextOf (tick (last [] 0))).map State.driversEnabled = some false ∧
    (nextOf (tick midway)).map State.driversEnabled = some false := by decide

theorem wit_ZeroTimeSegmentOnlyLoads : (queued (segment 20 0 1 false false)).timeRemaining = 0 ∧
    (queued (segment 20 0 1 false false)).readPosition ≠ (queued (segment 20 0 1 false false)).writePosition ∧
    ((queued (segment 20 0 1 false false)).slotAt (queued (segment 20 0 1 false false)).headIndex).waitForSync = false ∧
    ((queued (segment 20 0 1 false false)).slotAt (queued (segment 20 0 1 false false)).headIndex).segmentTime = 0 := by
  decide

/-- One firing done of two, and the last. -/
theorem wit_TimeCountdown : 1 < (running 3 5 2 0).timeRemaining.toNat ∧
    (nextOf (ticks 1 (running 3 5 2 0))).map State.timeRemaining = some 1 := by decide

/-- The last firing, with the sum at the top of s32; and a firing that is not the last. -/
theorem wit_SteppingFiringEffect : 1 ≤ (running 0x7FFFFFFF 16777215 1 0).timeRemaining.toNat ∧
    (∀ a ∈ (running 0x7FFFFFFF 16777215 1 0).axes, a.accum.toInt + a.targetSteps.toNat ≤ 2147483647 ∧
      (((running 0x7FFFFFFF 16777215 1 0).bresenhamThreshold.toNat : Int) < a.accum.toInt + a.targetSteps.toNat →
        -2147483648 ≤ a.accum.toInt + a.targetSteps.toNat -
          ((running 0x7FFFFFFF 16777215 1 0).totalTime.toNat : Int))) ∧
    1 < (running 3 5 2 0).timeRemaining.toNat := by decide

theorem wit_IdleTickChangesNothing : one.timeRemaining = 0 ∧ one.readPosition = one.writePosition ∧
    (tryLoadNext (queued (segment 4 4 1 false true))).1 ≠ .ok := by decide

theorem wit_TickStopsOnlyOnOverflow : faultOf (tick (running 0x80000000 16777215 1 0)) = some .accumulatorOverflow ∧
    faultOf (tick (running 0x7FFFFFFF 16777215 1 0)) = none := by decide

theorem wit_StepCountClosedForm : (⟨5, 5, 0, .forward, 0⟩ : Axis).accum = 0 ∧ 1 ≤ (5 : Word).toNat ∧
    (5 : Word).toNat < 16777216 ∧ (2 : Word).toNat = (5 : Word).toNat / 2 ∧
    (⟨5, 5, 0, .forward, 0⟩ : Axis).targetSteps.toNat ≤ (5 : Word).toNat ∧
    [0, 1, 2, 3, 4, 5].map (stepsAfter 2 5) = [0, 0, 1, 1, 2, 2] := by decide

/-- Section 2.5, `K = 3`, `T = 8`: firings 2, 5, 7. -/
theorem wit_StepFiringsAreEvenlySpaced : [1, 2, 3].map (firingOfStep 3 8) = [2, 5, 7] ∧
    crosses 4 ((stepAxis 4 8)^[1] ⟨3, 3, 0, .forward, 0⟩) = true ∧
    crosses 4 ((stepAxis 4 8)^[2] ⟨3, 3, 0, .forward, 0⟩) = false ∧ (4 : Word).toNat = (8 : Word).toNat / 2 := by decide

/-- Section 2.6, `K = 5`, `T = 3`: accumulators 2, 4, 6. -/
theorem wit_EveryFiringStepsOutsideTheContract : (⟨5, 5, 0, .forward, 0⟩ : Axis).accum = 0 ∧
    (1 : Word).toNat = (3 : Word).toNat / 2 ∧ (3 : Word).toNat < (⟨5, 5, 0, .forward, 0⟩ : Axis).targetSteps.toNat ∧
    3 * (5 - 3) + 3 ≤ 2147483647 ∧
    [1, 2, 3].map (fun n => ((stepAxis 1 3)^[n] ⟨5, 5, 0, .forward, 0⟩).accum) = [2, 4, 6] := by decide

theorem midway_inContract : midway.InContract :=
  axes_inContract (a := ⟨3, 2, -2, .forward, 1⟩) rfl (by unfold Axis.InContract; decide)

theorem wit_SteppingKeepsTheContract : midway.Inv ∧ midway.InContract ∧ midway.timeRemaining ≠ 0 :=
  ⟨inv_of_plain (by decide), midway_inContract, by decide⟩

theorem wit_TickStaysInTheContract : (queued (segment (-4) 4 1 false false)).Inv ∧
    (queued (segment (-4) 4 1 false false)).InContract ∧
    stepPart (queued (segment (-4) 4 1 false false)) = .next (queued (segment (-4) 4 1 false false)) ∧
    (queued (segment (-4) 4 1 false false)).HeadInContract ∧
    (tryLoadNext (queued (segment (-4) 4 1 false false))).1 = .ok :=
  ⟨inv_of_plain (by decide), axes_inContract (a := Axis.reset) rfl (by unfold Axis.InContract; decide), rfl,
    axes_headInContract (a := Axis.reset) rfl (by decide), by decide⟩

theorem wit_AxesAreIndependent : nextOf (tick (running 3 5 5 0)) ≠ none ∧
    nextOf (tick { running 3 5 5 0 with axes := (running 3 5 5 0).axes ++ [⟨5, 5, 0, .backward, 7⟩] }) ≠ none ∧
    (running 3 5 5 0).axes[0]? =
      ((running 3 5 5 0).axes ++ [(⟨5, 5, 0, .backward, 7⟩ : Axis)])[0]? := by decide

theorem wit_LedgerMovesOncePerPulse : (nextOf (tick (running 3 5 5 0))).map (fun s => (s.pulseCount 0, s.axes.map Axis.position)) =
      some (1, [1]) ∧
    (nextOf (tick (running 2 4 4 0))).map (fun s => (s.pulseCount 0, s.axes.map Axis.position)) = some (0, [0]) := by decide

/-- An absolute segment with `K = T`, the largest the contract allows. -/
theorem wit_SegmentMovesExactly : (queued (segment (-4) 4 1 true false)).Inv ∧
    (queued (segment (-4) 4 1 true false)).timeRemaining = 0 ∧
    (queued (segment (-4) 4 1 true false)).readPosition ≠ (queued (segment (-4) 4 1 true false)).writePosition ∧
    segment (-4) 4 1 true false =
      (queued (segment (-4) 4 1 true false)).slotAt (queued (segment (-4) 4 1 true false)).headIndex ∧
    (queued (segment (-4) 4 1 true false)).HeadInContract :=
  ⟨inv_of_plain (by decide), by decide, by decide, by decide, axes_headInContract (a := Axis.reset) rfl (by decide)⟩

/-- Two firings left and one; after the last the buffer is empty, blocks, or loads. -/
theorem wit_LoaderStateMachine : (nextOf (tick (running 3 5 2 0))).map State.timeRemaining = some 1 ∧
    (nextOf (tick (last [] 0))).map State.timeRemaining = some 0 ∧
    (nextOf (tick (last [(1, segment 4 9 1 false true)] 1))).map (fun s => (s.timeRemaining, s.waitingForSync)) =
      some (0, true) ∧
    (nextOf (tick (last [(1, segment 4 9 7 false false)] 1))).map (fun s => (s.timeRemaining, s.segmentKey)) =
      some (9, 7) := by decide

/-- A TICK that pulses and loads. -/
theorem wit_PulseComesBeforeDir : (nextOf (tick (last [(1, segment (-4) 9 7 false false)] 1))).map State.out =
    some [.pulse [true], .dir [false], .enableN false] := by decide

theorem wit_DriversDoNotGateStepping : (nextOf (tick (running 3 5 5 0))).map State.driversEnabled = some false ∧
    faultOf (tick (running 0x80000000 16777215 1 0)) = some .accumulatorOverflow := by decide

theorem wit_TicksNeverLiftAStall : (queued (segment 4 4 1 false true)).timeRemaining = 0 ∧
    (queued (segment 4 4 1 false true)).readPosition ≠ (queued (segment 4 4 1 false true)).writePosition ∧
    ((queued (segment 4 4 1 false true)).slotAt (queued (segment 4 4 1 false true)).headIndex).waitForSync = true ∧
    one.readPosition = one.writePosition := by decide

theorem wit_EnableDriversEffect : ((0 : Byte) = 0) ∧ (1 : Byte) ≠ 0 ∧ (255 : Byte) ≠ 0 := by decide

theorem wit_StepRequestEffect : [(-1 : U24)].length = (at3 0 46 0).cfg.n ∧ (at3 0 46 0).bufferFull = false ∧
    (at3 0 47 0).bufferFull = true := by decide

theorem wit_StepRequestStopsOnIllFormedTerms : ([] : List U24).length ≠ one.cfg.n ∧
    [(1 : U24), 2].length ≠ one.cfg.n := by decide

/-- Positions at both ends of what a 24-bit reply holds, with `SB = 2`. -/
theorem wit_GetPositionEffect : one.axes[0]? = some Axis.reset ∧
    (-33554432 : Word).toInt / 2 ^ one.cfg.sb = -8388608 ∧ (33554431 : Word).toInt / 2 ^ one.cfg.sb = 8388607 ∧
    ({ one with axes := [{ Axis.reset with position := -33554432 }] } : State).positionPayload = [0x00, 0x00, 0x80] ∧
    ({ one with axes := [{ Axis.reset with position := 33554431 }] } : State).positionPayload = [0xFF, 0xFF, 0x7F] := by
  decide

/-- The oldest of two waiting segments, and a buffer with none. -/
theorem wit_SyncReleasesTheOldestWaiting :
    (withSlots (at3 0 2 0) [(1, segment 4 4 1 false true), (2, segment 4 4 2 false true)]).Inv ∧
    (withSlots (at3 0 2 0) [(1, segment 4 4 1 false true), (2, segment 4 4 2 false true)]).OldestWaiting 1 ∧
    one.Inv ∧ one.cfg.hasSync = true ∧ ∀ p, ¬ one.OldestWaiting p := by
  refine ⟨inv_of_plain (by decide), ⟨⟨by decide, by decide, by decide⟩, by decide, fun q hq hlt => ?_⟩,
    inv_of_plain (by decide), by decide, fun p hp => ?_⟩
  · have h1 := hq.2.1
    have hd : distance 48 0 1 = 1 := by decide
    change distance 48 0 q < distance 48 0 1 at hlt
    change 1 ≤ distance 48 0 q at h1
    omega
  · have h1 := hp.1.2.1
    have h2 := hp.1.2.2
    have ho : one.occupancy = 0 := by decide
    omega

theorem wit_SyncCompletesEverywhere : three.cfg.hasSync = false ∧ one.cfg.hasSync = true := by decide

theorem wit_UnknownPortsAreIgnored : (one.present 17 [1]).inputs = .command 17 [1] :: [] ∧
    (17 : Byte).toNat ∉ [8, 11, 12, 13, 14, 15, 16] ∧ (10 : Byte).toNat ∉ [8, 11, 12, 13, 14, 15, 16] := by decide

theorem wit_CommandsStopOnlyOutsideTheSchema : (one.present 12 []).inputs = .command 12 [] :: [] ∧
    decode one.cfg.n 12 [] = .error .shortPayload ∧ decode one.cfg.n 13 (List.replicate 8 0) = .error .shortPayload ∧
    decode one.cfg.n 13 [0, 0, 0, 0, 0, 0, 0, 2, 0] = .error .reservedFlagValue ∧
    decode one.cfg.n 13 [0, 0, 0, 0, 0, 0, 0, 1, 1] = .ok (.stepRequest [0] 0 0 true true) := by decide

theorem wit_CommandsKeepTheTickAgentsState : nextOf (exec (.stepRequest [1] 4 1 false false) one) ≠ none ∧
    nextOf (exec .sync (queued (segment 4 4 1 false true))) ≠ none := by decide

/-- One TICK that moves the SYNC marker along with `readPosition`, and one that leaves both. -/
theorem wit_TickKeepsTheCommandAgentsState :
    (nextOf (tick (queued (segment 4 4 1 false false)))).map (fun s => (s.readPosition, s.syncSearchPosition)) = some (1, 1) ∧
    (nextOf (tick midway)).map (fun s => (s.readPosition, s.syncSearchPosition)) = some (0, 0) := by decide

theorem wit_ResetMeetsTheInvariants : ({ Config.oneAxis with c := 2, sb := 0, timebase := 16000 } : Config).wellFormed = true ∧
    ({ Config.threeAxis with c := 256, sb := 8 } : Config).wellFormed = true := by decide

theorem wit_EveryStepKeepsTheInvariants : midway.Inv ∧ nextOf (step midway) ≠ none ∧
    (queued (segment 4 4 1 false false)).Inv ∧ nextOf (step (queued (segment 4 4 1 false false))) ≠ none :=
  ⟨inv_of_plain (by decide), by decide, inv_of_plain (by decide), by decide⟩

theorem wit_ReachableStatesMeetTheInvariants : Config.oneAxis.wellFormed = true ∧
    Reachable Config.oneAxis { State.resetOf Config.oneAxis 0 with inputs := [.command 8 []] } :=
  ⟨by decide, Reachable.present _ (Reachable.reset 0)⟩

theorem wit_StepRunsTheDecodedCommand : (one.present 12 [1]).inputs = .command 12 [1] :: [] ∧
    decode one.cfg.n 12 [1] = .ok (.enableDrivers 1) := by decide

theorem wit_FetchWordIsRunNext : one.cfg.n = 1 ∧ decodeTableWord 8 8 = some .sync ∧
    decodeTableWord 8 13 = some (.stepRequest [0] 0 0 false false) := by decide

theorem wit_ResetEventEffect : ({ midway with inputs := [.reset, .clk] } : State).inputs = .reset :: [.clk] ∧
    0 < midway.cfg.n := by decide

theorem wit_FirstBehaviourAfterReset : Config.threeAxis.wellFormed = true ∧
    [(1 : U24), 2, 3].length = Config.threeAxis.n := by decide

theorem wit_TimerRaisesTickEveryPeriod : ({ one with cfg := { Config.oneAxis with timebase := 3 } } : State).tcnt + 2 < 3 ∧
    one.inputs = [] ∧ one.out = [] ∧ one.tcnt + 1 = one.cfg.timebase := by decide

/-- A node in the middle of its tick period, with a waiting head that a TICK has found. -/
def waitingHead : State :=
  { queued (segment 4 4 1 false true) with waitingForSync := true, cfg := { Config.oneAxis with timebase := 3 }, tcnt := 2 }

theorem wit_SyncRealignsTheTick : waitingHead.cfg.hasSync = true ∧ waitingHead.waitingForSync = true ∧
    1 ≤ waitingHead.cfg.timebase ∧ waitingHead.inputs = [] ∧ waitingHead.out = [] ∧
    (nextOf (exec .sync waitingHead)).map State.tcnt = some 0 := by decide

theorem wit_BothOrdersAreAdmitted : decode one.cfg.n 13 [0x01, 0, 0, 0x04, 0, 0, 0x51, 0, 0] =
      .ok (.stepRequest [1] 4 0x51 false false) ∧
    one.tcnt + 1 = one.cfg.timebase ∧
    (nextOf (exec (.stepRequest [1] 4 0x51 false false) { one with inputs := [.clk] })).map State.tcnt = some one.tcnt ∧
    nextOf (tick { one with inputs := [.command 13 [0x01, 0, 0, 0x04, 0, 0, 0x51, 0, 0]] }) ≠ none := by decide

end Sys2Proof.Tests
end

section
/-! PROOFS. The invariants of 10_state.md R29: RESET meets them, every operation keeps them, so they hold in every
reachable state. One preservation lemma per operation; a step is then a case split over what it can do. -/

namespace Sys2Proof.Machine

/-! ### RESET -/

/-- R31's values meet the invariants of every admissible configuration. -/
theorem resetOf_inv {cfg : Config} (hwf : cfg.wellFormed = true) (epoch : Nat) : (State.resetOf cfg epoch).Inv := by
  obtain ⟨_, hc2, _, _, htb, _⟩ := Config.wellFormed_iff.mp hwf
  have hc : (0 : Byte).toNat < cfg.c := by simp; omega
  have hd : distance cfg.c 0 0 = 0 := distance_self hc
  exact {
    cfg_wf := hwf
    axes_length := List.length_replicate
    read_lt := hc
    write_lt := hc
    sync_lt := hc
    sync_between := Nat.le_refl _
    searched_released := fun p _ h1 hle => absurd (Nat.le_trans h1 (hd ▸ hle)) (by decide)
    time_le := Nat.le_refl _
    threshold_half := show (0 : Word).toNat = (0 : Word).toNat / 2 by decide
    total_lt := show (0 : Word).toNat < 16777216 by decide
    tcnt_lt := htb
    slots_wf := Memory.wf_nil _ _
    waiting_nonempty := fun hw => nomatch hw
    waiting_idle := fun hw => nomatch hw }

/-- After RESET no axis has a step to make: `K = 0` and `T = 0`. -/
theorem resetOf_inContract (cfg : Config) (epoch : Nat) : (State.resetOf cfg epoch).InContract := by
  intro a ha
  obtain rfl : a = Axis.reset := List.eq_of_mem_replicate ha
  show Axis.reset.InContract 0 0
  simp [Axis.InContract, Axis.reset]

/-! ### Circular indices -/

/-- From the next index back to an index the way leads around the whole circle but one. -/
theorem distance_next_self {c : Nat} (h : c ≤ 256) {a : Byte} (ha : a.toNat < c) :
    distance c (nextIndex c a) a = c - 1 := by
  rw [distance_cases (nextIndex_lt (Nat.zero_lt_of_lt ha) h a) ha, nextIndex_cases h ha]
  split <;> split <;> omega

/-! ### Registers the invariants say nothing about, and those they only bound -/

namespace State.Inv

/-- The axes' values, the active key, the drivers, the outputs and the inputs are free; the countdown may fall and
the counter move below its period. -/
theorem frame {s : State} (h : s.Inv) {axes : List Axis} {timeRemaining : Word} {segmentKey : Byte}
    {driversEnabled : Bool} {tcnt : Nat} {out : List Output} {inputs : List Event}
    (haxes : axes.length = s.axes.length) (htime : timeRemaining.toNat ≤ s.timeRemaining.toNat)
    (htcnt : tcnt < s.cfg.timebase) :
    State.Inv { s with
      axes := axes, timeRemaining := timeRemaining, segmentKey := segmentKey, driversEnabled := driversEnabled,
      tcnt := tcnt, out := out, inputs := inputs } :=
  { h with
    axes_length := haxes.trans h.axes_length
    time_le := Nat.le_trans htime h.time_le
    tcnt_lt := htcnt
    waiting_idle := fun hw => by
      have h0 : s.timeRemaining.toNat = 0 := by rw [h.waiting_idle hw]; rfl
      exact BitVec.eq_of_toNat_eq (Nat.le_zero.mp (h0 ▸ htime)) }

theorem takeEvent {s : State} (h : s.Inv) : s.takeEvent.Inv := h.frame rfl (Nat.le_refl _) h.tcnt_lt

theorem withInputs {s : State} (h : s.Inv) (inputs : List Event) : State.Inv { s with inputs := inputs } :=
  h.frame rfl (Nat.le_refl _) h.tcnt_lt

theorem setTcnt {s : State} (h : s.Inv) {t : Nat} (ht : t < s.cfg.timebase) : (s.setTcnt t).Inv :=
  h.frame rfl (Nat.le_refl _) ht

theorem sendReply {s : State} (h : s.Inv) (port : Byte) (payload : List Byte) : (s.sendReply port payload).Inv :=
  h.frame rfl (Nat.le_refl _) h.tcnt_lt

theorem setDriversEnabled {s : State} (h : s.Inv) (b : Bool) : (s.setDriversEnabled b).Inv :=
  h.frame rfl (Nat.le_refl _) h.tcnt_lt

theorem timebase_pos {s : State} (h : s.Inv) : 0 < s.cfg.timebase := Nat.zero_lt_of_lt h.tcnt_lt

theorem two_le_c {s : State} (h : s.Inv) : 2 ≤ s.cfg.c := (Config.wellFormed_iff.mp h.cfg_wf).2.1

theorem c_le {s : State} (h : s.Inv) : s.cfg.c ≤ 256 := (Config.wellFormed_iff.mp h.cfg_wf).2.2.1

theorem nextIndex_lt {s : State} (h : s.Inv) (p : Byte) : (nextIndex s.cfg.c p).toNat < s.cfg.c :=
  Machine.nextIndex_lt (Nat.zero_lt_of_lt h.two_le_c) h.c_le p

/-! ### The motion buffer -/

/-- R81: the slot that enqueue writes lies beyond everything SYNC has searched, and its publication lengthens the
queue by one. -/
theorem publish {s : State} (h : s.Inv) (hfull : s.bufferFull = false) {seg : Slot}
    (hseg : seg.wellFormed s.cfg.n = true) :
    ((s.writeSlot (nextIndex s.cfg.c s.writePosition) seg).setWritePosition
      (nextIndex s.cfg.c s.writePosition)).Inv := by
  have hw := h.nextIndex_lt s.writePosition
  have hne : nextIndex s.cfg.c s.writePosition ≠ s.readPosition := by simpa [State.bufferFull] using hfull
  have hocc : distance s.cfg.c s.readPosition (nextIndex s.cfg.c s.writePosition) = s.occupancy + 1 := by
    have hnz := fun e => hne ((distance_eq_zero_iff h.read_lt hw).mp e)
    have hstep := distance_to_next h.c_le h.read_lt h.write_lt
    split at hstep
    · exact absurd hstep hnz
    · exact hstep
  have hsync := h.sync_between
  exact { h with
    write_lt := hw
    sync_between := by
      show _ ≤ distance s.cfg.c s.readPosition (nextIndex s.cfg.c s.writePosition)
      exact hocc ▸ Nat.le_succ_of_le hsync
    searched_released := fun p hp h1 hle => by
      have hpw : p ≠ nextIndex s.cfg.c s.writePosition := by
        rintro rfl
        change distance s.cfg.c s.readPosition _ ≤ distance s.cfg.c s.readPosition s.syncSearchPosition at hle
        omega
      exact (congrArg Slot.waitForSync (slotAt_writeSlot_other hpw seg s)).trans (h.searched_released p hp h1 hle)
    slots_wf := Memory.wf_write h.slots_wf hw hseg
    waiting_nonempty := fun _ => hne.symm }

/-- R82, blocked: the flag is raised only when idle, with a segment queued. -/
theorem block {s : State} (h : s.Inv) (hidle : s.timeRemaining = 0) (hne : s.readPosition ≠ s.writePosition) :
    (s.setWaitingForSync true).Inv :=
  { h with
    waiting_nonempty := fun _ => hne
    waiting_idle := fun _ => hidle }

/-! ### The indices behind which every slot is released -/

/-- R126: the marker moves on to a slot up to `writePosition` when everything passed is released. -/
theorem advanceSync {s : State} (h : s.Inv) {p : Byte} (hp : p.toNat < s.cfg.c)
    (hle : distance s.cfg.c s.syncSearchPosition p ≤ distance s.cfg.c s.syncSearchPosition s.writePosition)
    (hrel : ∀ q : Byte, q.toNat < s.cfg.c → 1 ≤ distance s.cfg.c s.syncSearchPosition q →
      distance s.cfg.c s.syncSearchPosition q ≤ distance s.cfg.c s.syncSearchPosition p →
      (s.slotAt q).waitForSync = false) :
    (s.setSyncSearchPosition p).Inv := by
  have hbetween : distance s.cfg.c s.readPosition s.syncSearchPosition ≤
    distance s.cfg.c s.readPosition s.writePosition := h.sync_between
  have hrest := distance_trans h.read_lt h.sync_lt h.write_lt hbetween
  have hlt := distance_lt (Nat.zero_lt_of_lt h.two_le_c) s.readPosition s.writePosition
  have hadd := distance_add h.read_lt h.sync_lt hp (by omega)
  exact { h with
    sync_lt := hp
    sync_between := by
      show distance s.cfg.c s.readPosition p ≤ distance s.cfg.c s.readPosition s.writePosition
      omega
    searched_released := fun q hq h1 hqp => by
      change distance s.cfg.c s.readPosition q ≤ distance s.cfg.c s.readPosition p at hqp
      by_cases hqs : distance s.cfg.c s.readPosition q ≤ distance s.cfg.c s.readPosition s.syncSearchPosition
      · exact h.searched_released q hq h1 hqs
      · have hq' := distance_trans h.read_lt h.sync_lt hq (by omega)
        exact hrel q hq (by omega) (by omega) }

/-- R82, ok: `readPosition` advances by one towards a marker that is ahead of it. -/
theorem advanceRead {s : State} (h : s.Inv) (hs : s.syncSearchPosition ≠ s.readPosition) :
    State.Inv { s with waitingForSync := false, readPosition := s.headIndex } := by
  have hbetween : distance s.cfg.c s.readPosition s.syncSearchPosition ≤
    distance s.cfg.c s.readPosition s.writePosition := h.sync_between
  have hsync := distance_from_next h.c_le h.read_lt h.sync_lt hs
  have hw : s.writePosition ≠ s.readPosition := by
    intro e
    rw [e, distance_self h.read_lt] at hbetween
    exact hs ((distance_eq_zero_iff h.read_lt h.sync_lt).mp (Nat.le_zero.mp hbetween))
  have hwrite := distance_from_next h.c_le h.read_lt h.write_lt hw
  exact { h with
    read_lt := h.nextIndex_lt s.readPosition
    sync_between := by
      show distance s.cfg.c (nextIndex s.cfg.c s.readPosition) s.syncSearchPosition ≤
        distance s.cfg.c (nextIndex s.cfg.c s.readPosition) s.writePosition
      omega
    searched_released := fun p hp h1 hle => by
      change 1 ≤ distance s.cfg.c (nextIndex s.cfg.c s.readPosition) p at h1
      change distance s.cfg.c (nextIndex s.cfg.c s.readPosition) p ≤
        distance s.cfg.c (nextIndex s.cfg.c s.readPosition) s.syncSearchPosition at hle
      have hpr : p ≠ s.readPosition := by
        rintro rfl
        have hback := distance_next_self h.c_le hp
        have hlt := distance_lt (Nat.zero_lt_of_lt h.two_le_c) s.readPosition s.syncSearchPosition
        omega
      have hpn := distance_from_next h.c_le h.read_lt hp hpr
      exact h.searched_released p hp (by omega) (by omega)
    waiting_nonempty := fun hw => nomatch hw
    waiting_idle := fun hw => nomatch hw }

/-- R82, ok: a marker at `readPosition` moves onto the head first, which does not wait. -/
theorem afterLoad {s : State} (h : s.Inv) (hready : s.headReady = true) : (Machine.afterLoad s).Inv := by
  obtain ⟨hne, hhead⟩ : s.readPosition ≠ s.writePosition ∧ (s.slotAt s.headIndex).waitForSync = false := by
    simpa [State.headReady] using hready
  by_cases hs : s.syncSearchPosition = s.readPosition
  · have hlt : s.headIndex.toNat < s.cfg.c := h.nextIndex_lt _
    have hone : distance s.cfg.c s.readPosition s.headIndex = 1 := distance_next h.two_le_c h.c_le h.read_lt
    have hocc : distance s.cfg.c s.readPosition s.writePosition ≠ 0 := fun e =>
      hne ((distance_eq_zero_iff h.read_lt h.write_lt).mp e).symm
    have hmoved : (s.setSyncSearchPosition s.headIndex).Inv := by
      refine h.advanceSync hlt (by rw [hs]; omega) fun q hq h1 hle => ?_
      rw [hs] at h1 hle
      rwa [distance_inj h.read_lt hq hlt (by omega)]
    have hahead : s.headIndex ≠ s.readPosition := fun e => by
      rw [e, distance_self h.read_lt] at hone
      cases hone
    rw [Machine.afterLoad, if_pos hs]
    exact hmoved.advanceRead hahead
  · rw [Machine.afterLoad, if_neg hs]
    exact h.advanceRead hs

/-- R90: a load takes a u24 time from the slot and its half as the threshold. -/
theorem loadSegment {s : State} (h : s.Inv) (hw : s.waitingForSync = false) : (Machine.loadSegment s).Inv := by
  have htime := (Slot.wellFormed_iff.mp (slotAt_wellFormed h.slots_wf s.readPosition)).2
  rw [loadSegment_eq]
  exact { h with
    axes_length := List.length_mapIdx.trans h.axes_length
    time_le := Nat.le_refl _
    threshold_half := BitVec.toNat_udiv
    total_lt := htime
    waiting_idle := fun hw' => nomatch hw.symm.trans hw' }

/-! ### SYNC -/

/-- Releasing a slot sets no flag. -/
theorem clearWaitForSync {s : State} (h : s.Inv) {p : Byte} (hp : p.toNat < s.cfg.c) :
    (s.clearWaitForSync p).Inv :=
  { h with
    searched_released := fun q hq h1 hle => by
      by_cases e : q = p
      · rw [e, slotAt_clearWaitForSync_same]
      · rw [slotAt_clearWaitForSync_other e]
        exact h.searched_released q hq h1 hle
    slots_wf := Memory.wf_write h.slots_wf hp (slotAt_wellFormed h.slots_wf p) }

theorem realignTimer {s : State} (h : s.Inv) : (Machine.realignTimer s).Inv := by
  rw [realignTimer_eq]
  refine h.frame rfl (Nat.le_refl _) ?_
  split
  · exact h.timebase_pos
  · exact h.tcnt_lt

/-- R126: the scan passes released slots only, up to the slot it releases or to `writePosition`. -/
theorem releaseOldest {s : State} (h : s.Inv) : (Machine.releaseOldest s).Inv := by
  have hlt := distance_lt (Nat.zero_lt_of_lt h.two_le_c) s.syncSearchPosition s.writePosition
  rcases releaseOldest_cases s with ⟨p, hscan, heq⟩ | ⟨hscan, heq⟩
  · obtain ⟨hp, _, hle, _, hpassed⟩ := scanForWaiting_some h.two_le_c h.c_le h.sync_lt hlt hscan
    rw [heq]
    refine (h.clearWaitForSync hp).advanceSync hp hle fun q hq h1 hqp => ?_
    by_cases e : q = p
    · rw [e, slotAt_clearWaitForSync_same]
    · rw [slotAt_clearWaitForSync_other e]
      exact hpassed q hq h1 (lt_of_le_of_ne hqp fun hd => e (distance_inj h.sync_lt hq hp hd))
  · rw [heq]
    exact h.advanceSync h.write_lt (Nat.le_refl _) (scanForWaiting_none h.two_le_c h.c_le h.sync_lt hlt hscan)

end State.Inv

/-! ### TICK -/

/-- A firing counts down, from a time that is not 0, and keeps one set of registers per axis. -/
theorem stepPart_inv {s t : State} (h : s.Inv) (hs : stepPart s = .next t) : t.Inv := by
  rcases stepPart_next hs with ⟨_, rfl⟩ | ⟨hne, _, rfl⟩
  · exact h
  · rw [stepFiring_eq]
    have hle : (s.timeRemaining - 1).toNat ≤ s.timeRemaining.toNat := by bv_omega
    exact h.frame (List.length_map _) hle h.tcnt_lt

theorem loadPart_inv {s : State} (h : s.Inv) : (loadPart s).Inv := by
  rcases loadPart_cases s with heq | ⟨hidle, hne, _, heq⟩ | ⟨_, hready, heq⟩ <;> rw [heq]
  · exact h
  · exact h.block hidle hne
  · exact (h.afterLoad hready).loadSegment rfl

theorem tick_inv {s u : State} (h : s.Inv) (hs : tick s = .next u) : u.Inv := by
  obtain ⟨t, hstep, rfl⟩ := tick_next hs
  exact loadPart_inv (stepPart_inv h hstep)

/-! ### Commands -/

/-- One target per axis and a 24-bit time make a well-formed record. -/
theorem segmentOf_wellFormed {n : Nat} {targets : List U24} (hn : targets.length = n) (sb : Nat) (time : U24)
    (key : Byte) (abs wfs : Bool) : (segmentOf sb targets time key abs wfs).wellFormed n = true := by
  have := time.isLt
  refine Slot.wellFormed_iff.mpr ⟨by simp [segmentOf, hn], ?_⟩
  show (time.setWidth 32).toNat < 16777216
  rw [BitVec.toNat_setWidth]
  omega

theorem execStepRequest_next {targets : List U24} {time : U24} {key : Byte} {abs wfs : Bool} {s t : State}
    (hs : execStepRequest targets time key abs wfs s = .next t) : targets.length = s.cfg.n := by
  unfold execStepRequest at hs
  split at hs
  · assumption
  · cases hs

theorem execStepRequest_inv {targets : List U24} {time : U24} {key : Byte} {abs wfs : Bool} {s t : State}
    (h : s.Inv) (hs : execStepRequest targets time key abs wfs s = .next t) : t.Inv := by
  have hn := execStepRequest_next hs
  rcases execStepRequest_cases hn time key abs wfs with ⟨_, heq⟩ | ⟨hfull, heq⟩ <;> cases hs.symm.trans heq
  · exact h.sendReply _ _
  · exact (h.publish hfull (segmentOf_wellFormed hn _ _ _ _ _)).sendReply _ _

/-- What SYNC answers, with the handler and without it (R126, R129). -/
theorem execSync_next {s t : State} (hs : execSync s = .next t) :
    (s.cfg.hasSync = true ∧ t = releaseOldest (realignTimer s)) ∨ (s.cfg.hasSync = false ∧ t = s) := by
  unfold execSync at hs
  split at hs <;> cases hs
  · next hsync => exact .inl ⟨hsync, rfl⟩
  · next hsync => exact .inr ⟨Bool.eq_false_iff.mpr hsync, rfl⟩

theorem execSync_inv {s t : State} (h : s.Inv) (hs : execSync s = .next t) : t.Inv := by
  rcases execSync_next hs with ⟨_, rfl⟩ | ⟨_, rfl⟩
  · exact h.realignTimer.releaseOldest
  · exact h

theorem exec_inv {i : Instr} {s t : State} (h : s.Inv) (hs : exec i s = .next t) : t.Inv := by
  cases i with
  | sync => exact execSync_inv h hs
  | stepRequest => exact execStepRequest_inv h hs
  | enableDrivers => cases hs; exact (h.setDriversEnabled _).sendReply _ _
  | getPosition => cases hs; exact h.sendReply _ _
  | getStatus => cases hs; exact h.sendReply _ _
  | vrefExternal => cases hs; exact h
  | pwmExternal => cases hs; exact h

/-! ### The configuration (R30) -/

theorem releaseOldest_cfg (s : State) : (releaseOldest s).cfg = s.cfg := by
  rcases releaseOldest_cases s with ⟨_, _, heq⟩ | ⟨_, heq⟩ <;> rw [heq] <;> rfl

theorem execSync_cfg {s t : State} (hs : execSync s = .next t) : t.cfg = s.cfg := by
  rcases execSync_next hs with ⟨_, rfl⟩ | ⟨_, rfl⟩
  · rw [releaseOldest_cfg, realignTimer_eq]
  · rfl

theorem execStepRequest_cfg {targets : List U24} {time : U24} {key : Byte} {abs wfs : Bool} {s t : State}
    (hs : execStepRequest targets time key abs wfs s = .next t) : t.cfg = s.cfg := by
  rcases execStepRequest_cases (execStepRequest_next hs) time key abs wfs with ⟨_, heq⟩ | ⟨_, heq⟩ <;>
    cases hs.symm.trans heq <;> rfl

theorem exec_cfg {i : Instr} {s t : State} (hs : exec i s = .next t) : t.cfg = s.cfg := by
  cases i with
  | sync => exact execSync_cfg hs
  | stepRequest => exact execStepRequest_cfg hs
  | enableDrivers | getPosition | getStatus | vrefExternal | pwmExternal => cases hs; rfl

theorem loadPart_cfg (s : State) : (loadPart s).cfg = s.cfg := by
  rcases loadPart_cases s with heq | ⟨_, _, _, heq⟩ | ⟨_, _, heq⟩ <;> rw [heq]
  · rfl
  · rw [loadSegment_eq]; rfl

theorem tick_cfg {s u : State} (hs : tick s = .next u) : u.cfg = s.cfg := by
  obtain ⟨t, hstep, rfl⟩ := tick_next hs
  rw [loadPart_cfg, stepPart_frame hstep]

theorem step_cfg {s t : State} (hs : step s = .next t) : t.cfg = s.cfg := by
  rcases step_next hs with ⟨_, rfl⟩ | ⟨_, _, rfl⟩ | ⟨_, _, htick⟩ | ⟨_, _, _, _, rfl⟩ | ⟨_, _, _, _, _, hexec⟩
  · rfl
  · rfl
  · simpa using tick_cfg htick
  · rfl
  · simpa using exec_cfg hexec

/-! ### The obligations -/

/-- Settles O44: R31's reset values, field by field. -/
theorem resetMeetsTheInvariants : Obligations.ResetMeetsTheInvariants :=
  fun cfg epoch hwf => ⟨resetOf_inv hwf epoch, resetOf_inContract cfg epoch⟩

/-- Settles O45: by the event the step performs, each by its own preservation lemma. -/
theorem everyStepKeepsTheInvariants : Obligations.EveryStepKeepsTheInvariants := by
  intro s t h hs
  have h' := h.takeEvent
  rcases step_next hs with ⟨_, rfl⟩ | ⟨_, hne, rfl⟩ | ⟨_, _, htick⟩ | ⟨_, _, _, _, rfl⟩ | ⟨_, _, _, _, _, hexec⟩
  · exact (resetOf_inv h.cfg_wf _).withInputs _
  · exact h'.setTcnt (Nat.lt_of_le_of_ne h.tcnt_lt hne)
  · exact tick_inv (h'.setTcnt h.timebase_pos) htick
  · exact h'
  · exact exec_inv h' hexec

/-- Settles O46: by induction on how the state is reached, with O45 for a step. -/
theorem reachableStatesMeetTheInvariants : Obligations.ReachableStatesMeetTheInvariants := by
  intro cfg s hwf hr
  induction hr with
  | reset epoch => exact ⟨resetOf_inv hwf epoch, rfl⟩
  | step _ hs ih => exact ⟨everyStepKeepsTheInvariants _ _ ih.1 hs, (step_cfg hs).trans ih.2⟩
  | present inputs _ ih => exact ⟨ih.1.withInputs inputs, ih.2⟩

end Sys2Proof.Machine
end

section
/-! PROOFS. What enqueue writes beside the queued slots (20_memory.md R54, 41_motion_buffer.md R81 corner case d).
Everything follows from one distance: the slot it writes lies one beyond the occupancy, seen from `readPosition`. -/

namespace Sys2Proof.Machine

theorem bufferFull_eq_false_iff {s : State} :
    s.bufferFull = false ↔ nextIndex s.cfg.c s.writePosition ≠ s.readPosition := by
  simp [State.bufferFull]

theorem enqueue_eq_ok_iff {seg : Slot} {s : State} : (enqueue seg s).1 = .ok ↔ s.bufferFull = false := by
  rcases enqueue_cases seg s with ⟨hfull, heq⟩ | ⟨hfull, heq⟩ <;> simp [heq, hfull]

/-- A queue that ends one slot further holds that slot beside what it held. -/
theorem State.queued_of_publish {s t : State} {w : Byte} (hr : s.readPosition.toNat < s.cfg.c)
    (hw : w.toNat < s.cfg.c) (hdist : distance s.cfg.c s.readPosition w = s.occupancy + 1)
    (hcfg : t.cfg = s.cfg) (hread : t.readPosition = s.readPosition) (hwrite : t.writePosition = w) (p : Byte) :
    t.Queued p ↔ s.Queued p ∨ p = w := by
  have hocc : t.occupancy = s.occupancy + 1 := by rw [State.occupancy, hcfg, hread, hwrite, hdist]
  unfold State.Queued
  rw [hcfg, hread, hocc]
  constructor
  · rintro ⟨hp, h1, hle⟩
    rcases Nat.le_succ_iff.mp hle with hold | hnew
    · exact .inl ⟨hp, h1, hold⟩
    · exact .inr (distance_inj hr hp hw (hnew.trans hdist.symm))
  · rintro (⟨hp, h1, hle⟩ | rfl)
    · exact ⟨hp, h1, Nat.le_succ_of_le hle⟩
    · exact ⟨hw, by omega, by omega⟩

namespace State.Inv

/-- The slot after the newest queued one lies one beyond the occupancy while the buffer is not full. -/
theorem distance_next_write {s : State} (h : s.Inv) (hfull : s.bufferFull = false) :
    distance s.cfg.c s.readPosition (nextIndex s.cfg.c s.writePosition) = s.occupancy + 1 := by
  have hnz : distance s.cfg.c s.readPosition (nextIndex s.cfg.c s.writePosition) ≠ 0 := fun e =>
    bufferFull_eq_false_iff.mp hfull ((distance_eq_zero_iff h.read_lt (h.nextIndex_lt _)).mp e)
  have hstep := distance_to_next h.c_le h.read_lt h.write_lt
  split at hstep
  · exact absurd hstep hnz
  · exact hstep

end State.Inv

/-- Settles O9: the slot written is one beyond the occupancy, so it is none of the queued ones, and publishing it
makes it the last of them. -/
theorem enqueueSparesLiveSlots : Obligations.EnqueueSparesLiveSlots := by
  intro seg s h hok
  have hfull := enqueue_eq_ok_iff.mp hok
  have hdist := h.distance_next_write hfull
  rw [enqueue_ok hfull]
  refine ⟨?_, bufferFull_eq_false_iff.mp hfull, hdist, ?_⟩
  · rintro ⟨_, _, hle⟩
    omega
  · exact State.queued_of_publish h.read_lt (h.nextIndex_lt _) hdist rfl rfl rfl

end Sys2Proof.Machine
end

section
/-! PROOFS. The payload codec in exact integers (30_encoding.md R63 to R66): what a read is worth, which bytes a write
gives, and that each undoes the other within 24 bits. -/

namespace Sys2Proof

theorem rdU16_toNat (P : List Byte) (k : Nat) :
    (rdU16 P k).toNat = (byteAt P k).toNat + 256 * (byteAt P (k + 1)).toNat := by
  have h0 := (byteAt P k).isLt
  have h1 := (byteAt P (k + 1)).isLt
  rw [rdU16, BitVec.toNat_ofNat]
  omega

theorem rdU24_toNat (P : List Byte) (k : Nat) : (rdU24 P k).toNat =
    (byteAt P k).toNat + 256 * (byteAt P (k + 1)).toNat + 65536 * (byteAt P (k + 2)).toNat := by
  have h0 := (byteAt P k).isLt
  have h1 := (byteAt P (k + 1)).isLt
  have h2 := (byteAt P (k + 2)).isLt
  rw [rdU24, BitVec.toNat_ofNat]
  omega

theorem wrU16_toNat (v : BitVec 16) : (wrU16 v).map BitVec.toNat = [v.toNat % 256, v.toNat / 256] := by
  have hv := v.isLt
  have hhigh : v.toNat / 256 % 256 = v.toNat / 256 := by omega
  simp [wrU16, Nat.shiftRight_eq_div_pow, hhigh]

theorem wrU24_toNat (v : Word) : (wrU24 v).map BitVec.toNat =
    [v.toNat % 256, v.toNat / 256 % 256, v.toNat / 65536 % 256] := by
  simp [wrU24, Nat.shiftRight_eq_div_pow]

/-- Reading the three bytes just written gives the low 24 bits. -/
theorem rdU24_wrU24_append (v : Word) (rest : List Byte) : rdU24 (wrU24 v ++ rest) 0 = v.setWidth 24 := by
  apply BitVec.eq_of_toNat_eq
  rw [rdU24_toNat, BitVec.toNat_setWidth]
  show (v.extractLsb' 0 8).toNat + 256 * (v.extractLsb' 8 8).toNat + 65536 * (v.extractLsb' 16 8).toNat = _
  simp only [BitVec.extractLsb'_toNat, Nat.shiftRight_eq_div_pow]
  omega

theorem rdU24_wrU24 (v : Word) : rdU24 (wrU24 v) 0 = v.setWidth 24 := by
  simpa using rdU24_wrU24_append v []

/-- Writing the 24-bit field just read gives the three bytes it was read from. -/
theorem wrU24_rdU24 (P : List Byte) (k : Nat) :
    wrU24 ((rdU24 P k).setWidth 32) = [byteAt P k, byteAt P (k + 1), byteAt P (k + 2)] := by
  have h0 := (byteAt P k).isLt
  have h1 := (byteAt P (k + 1)).isLt
  have h2 := (byteAt P (k + 2)).isLt
  apply List.map_injective_iff.mpr (fun _ _ => BitVec.eq_of_toNat_eq)
  rw [wrU24_toNat, BitVec.toNat_setWidth, rdU24_toNat]
  simp only [List.map_cons, List.map_nil, List.cons.injEq, and_true]
  omega

/-! ### Sign extension (R65) -/

theorem sext24_toInt (v : U24) : (sext24 v).toInt = v.toInt := BitVec.toInt_signExtend_of_le (by decide)

theorem sext24_toInt_bounds (v : U24) : -8388608 ≤ (sext24 v).toInt ∧ (sext24 v).toInt ≤ 8388607 := by
  have hle := v.le_toInt
  have hlt := v.toInt_lt
  rw [sext24_toInt]
  omega

/-- Bit 23 weighs `-2^23`. -/
theorem sext24_toInt_of_bit (v : U24) :
    (sext24 v).toInt = if v.getLsbD 23 then (v.toNat : Int) - 16777216 else v.toNat := by
  rw [sext24_toInt, BitVec.toInt_eq_msb_cond, BitVec.msb_eq_getLsbD_last]
  rfl

/-- Sign extension fills the upper byte with bit 23. -/
theorem sext24_of_bit (v : U24) :
    sext24 v = if v.getLsbD 23 then v.setWidth 32 ||| 0xFF000000 else v.setWidth 32 := by
  rw [← (BitVec.msb_eq_getLsbD_last v : v.msb = v.getLsbD 23)]
  split
  · next hneg =>
    apply BitVec.eq_of_getLsbD_eq
    intro i hi
    have hupper : (0xFF000000 : Word).getLsbD i = decide (24 ≤ i) := by
      revert i
      decide
    simp only [sext24, BitVec.getLsbD_signExtend, BitVec.getLsbD_or, BitVec.getLsbD_setWidth, hneg, hupper]
    by_cases hlow : i < 24
    · simp [hlow, hi]
    · simp [hlow, hi, Nat.le_of_not_lt hlow]
  · next hpos => exact BitVec.signExtend_eq_setWidth_of_msb_false (by simpa using hpos)

/-- Sign extension restores the pattern from its low 24 bits exactly in the range of s24. -/
theorem sext24_setWidth_eq_iff (v : Word) :
    sext24 (v.setWidth 24) = v ↔ -8388608 ≤ v.toInt ∧ v.toInt ≤ 8388607 := by
  constructor
  · intro h
    exact h ▸ sext24_toInt_bounds (v.setWidth 24)
  · rintro ⟨hlo, hhi⟩
    have hv := BitVec.toInt_eq_toNat_cond v
    apply BitVec.eq_of_toInt_eq
    rw [sext24_toInt, BitVec.toInt_setWidth, Int.bmod_def]
    omega

theorem rdU24_wrS24_toInt (v : Word) : ((rdU24 (wrS24 v) 0).toNat : Int) = v.toInt % 16777216 := by
  have hv := BitVec.toInt_eq_toNat_cond v
  rw [wrS24, rdU24_wrU24, BitVec.toNat_setWidth]
  split at hv <;> omega

theorem rdS24_wrS24 (v : Word) : rdS24 (wrS24 v) 0 = sext24 (v.setWidth 24) := by
  rw [rdS24, wrS24, rdU24_wrU24]

/-! ### The obligations -/

/-- Settles O5: the weighted sums and the quotients stay below the widths that hold them. -/
theorem unsignedCodecIsLittleEndian : Obligations.UnsignedCodecIsLittleEndian :=
  ⟨fun P k => ⟨rdU16_toNat P k, rdU24_toNat P k⟩, wrU16_toNat, wrU24_toNat⟩

/-- Settles O6: a read is a sign extension, and reading back what was written extends the low 24 bits. -/
theorem signedCodecRoundTrip : Obligations.SignedCodecRoundTrip := by
  refine ⟨fun P k => ⟨sext24_toInt_of_bit _, sext24_of_bit _, sext24_toInt_bounds _⟩, fun v => ?_, by decide⟩
  have hback := sext24_setWidth_eq_iff v
  rw [← rdS24_wrS24] at hback
  exact ⟨wrU24_toNat v, rdU24_wrS24_toInt v, fun hlo hhi => hback.mpr ⟨hlo, hhi⟩, hback.mp⟩

/-- Settles O7: a 24-bit target times at most `2^8` is an s32, so the shift loses no bit. -/
theorem targetScalingIsExact : Obligations.TargetScalingIsExact := by
  intro sb t hsb
  obtain ⟨hlo, hhi⟩ := sext24_toInt_bounds t
  have hpos : (0 : Int) < 2 ^ sb := by positivity
  have hpow : (2 : Int) ^ sb ≤ 256 := pow_le_pow_right₀ (by decide : (1 : Int) ≤ 2) hsb
  have hmin : -2147483648 ≤ (sext24 t).toInt * 2 ^ sb := by nlinarith
  have hmax : (sext24 t).toInt * 2 ^ sb < 2147483648 := by nlinarith
  calc (Machine.scaleTarget sb t).toInt
      = ((sext24 t).toInt * 2 ^ sb).bmod (2 ^ 32) := by
        rw [Machine.scaleTarget, BitVec.toInt_shiftLeft, Nat.shiftLeft_eq, Nat.cast_mul, ← Int.bmod_mul_bmod,
          ← BitVec.toInt_eq_toNat_bmod, Nat.cast_pow, Nat.cast_ofNat]
    _ = (sext24 t).toInt * 2 ^ sb := Int.bmod_eq_of_le (by simpa using hmin) (by simpa using hmax)
    _ = t.toInt * 2 ^ sb := by rw [sext24_toInt]

end Sys2Proof
end

section
/-! PROOFS. The decoder and the encoder undo each other (30_encoding.md R60, R62, R67 to R69, R72 to R76): what the
decoder can answer, once, then the bytes of STEP_REQUEST in both directions. -/

namespace Sys2Proof

/-! ### What the decoder can answer -/

theorem decodeEnableDrivers_cases (P : List Byte) :
    (P.length < 1 ∧ decodeEnableDrivers P = .error .shortPayload) ∨
      (1 ≤ P.length ∧ decodeEnableDrivers P = .ok (.enableDrivers (byteAt P 0))) := by
  unfold decodeEnableDrivers
  split
  · next hshort => exact .inl ⟨hshort, rfl⟩
  · next hlen => exact .inr ⟨Nat.le_of_not_lt hlen, rfl⟩

/-- The length first, then the flags (R122, R144). -/
theorem decodeStepRequest_cases (n : Nat) (P : List Byte) :
    (P.length < 3 * n + 6 ∧ decodeStepRequest n P = .error .shortPayload) ∨
      (3 * n + 6 ≤ P.length ∧ ¬ ((byteAt P (3 * n + 4)).toNat ≤ 1 ∧ (byteAt P (3 * n + 5)).toNat ≤ 1) ∧
        decodeStepRequest n P = .error .reservedFlagValue) ∨
      (3 * n + 6 ≤ P.length ∧ ((byteAt P (3 * n + 4)).toNat ≤ 1 ∧ (byteAt P (3 * n + 5)).toNat ≤ 1) ∧
        decodeStepRequest n P = .ok (.stepRequest ((List.range n).map fun i => rdU24 P (3 * i)) (rdU24 P (3 * n))
          (byteAt P (3 * n + 3)) (byteAt P (3 * n + 4) == 1) (byteAt P (3 * n + 5) == 1))) := by
  unfold decodeStepRequest
  split
  · next hshort => exact .inl ⟨hshort, rfl⟩
  · next hlen =>
    have hlen := Nat.le_of_not_lt hlen
    split
    · next hflag => exact .inr (.inl ⟨hlen, by omega, rfl⟩)
    · next hflag => exact .inr (.inr ⟨hlen, by omega, rfl⟩)

/-- The ports whose command the port alone gives (R62): formats `E` and `X` (R69, log 17). -/
def portOnlyCommands : List (Byte × Instr) :=
  [(8, .sync), (11, .vrefExternal), (14, .getPosition), (15, .getStatus), (16, .pwmExternal)]

/-- Such a command has no operand: every node can be sent it, and its payload is empty. -/
theorem portOnly_encode {port : Byte} {i : Instr} (h : (port, i) ∈ portOnlyCommands) (n : Nat) :
    i.wellFormed n = true ∧ encode i = (port, []) ∧ payloadLength n i = 0 := by
  simp only [portOnlyCommands, List.mem_cons, Prod.mk.injEq, List.not_mem_nil, or_false] at h
  rcases h with ⟨rfl, rfl⟩ | ⟨rfl, rfl⟩ | ⟨rfl, rfl⟩ | ⟨rfl, rfl⟩ | ⟨rfl, rfl⟩ <;> exact ⟨rfl, rfl, rfl⟩

theorem portOnly_port {port : Byte} {i : Instr} (h : (port, i) ∈ portOnlyCommands) :
    port.toNat ∈ [8, 11, 14, 15, 16] :=
  List.mem_map_of_mem (f := fun c => c.1.toNat) h

/-- The port alone selects what becomes of the payload (R60, R72). -/
theorem decode_cases (n : Nat) (port : Byte) (P : List Byte) :
    (∃ i, (port, i) ∈ portOnlyCommands ∧ decode n port P = .ok i) ∨
      (port = 12 ∧ decode n port P = decodeEnableDrivers P) ∨
      (port = 13 ∧ decode n port P = decodeStepRequest n P) ∨
      (port.toNat ∉ [8, 11, 12, 13, 14, 15, 16] ∧ decode n port P = .error .unknownPort) := by
  by_cases hport : port.toNat ∈ [8, 11, 12, 13, 14, 15, 16]
  · have hport : port ∈ ([8, 11, 12, 13, 14, 15, 16] : List Byte) :=
      (List.mem_map_of_injective (fun _ _ => BitVec.eq_of_toNat_eq)).mp hport
    simp only [List.mem_cons, List.not_mem_nil, or_false] at hport
    rcases hport with rfl | rfl | rfl | rfl | rfl | rfl | rfl
    · exact .inl ⟨.sync, by decide, rfl⟩
    · exact .inl ⟨.vrefExternal, by decide, rfl⟩
    · exact .inr (.inl ⟨rfl, rfl⟩)
    · exact .inr (.inr (.inl ⟨rfl, rfl⟩))
    · exact .inl ⟨.getPosition, by decide, rfl⟩
    · exact .inl ⟨.getStatus, by decide, rfl⟩
    · exact .inl ⟨.pwmExternal, by decide, rfl⟩
  · refine .inr (.inr (.inr ⟨hport, ?_⟩))
    unfold decode
    split
    case h_8 => rfl
    all_goals next heq => exact absurd (by simp [heq]) hport

/-! ### STEP_REQUEST's payload in both directions (R67) -/

/-- The targets' bytes, axis 0 first. -/
def encodeTargets (ts : List U24) : List Byte := ts.flatMap fun v => wrU24 (v.setWidth 32)

/-- The six bytes after the targets: time, key and the two flags. -/
def encodeFields (time : U24) (key : Byte) (abs wfs : Bool) : List Byte :=
  wrU24 (time.setWidth 32) ++ [key, flagByte abs, flagByte wfs]

theorem encode_stepRequest (ts : List U24) (time : U24) (key : Byte) (abs wfs : Bool) :
    encode (.stepRequest ts time key abs wfs) = (13, encodeTargets ts ++ encodeFields time key abs wfs) :=
  congrArg (Prod.mk 13) (List.append_assoc _ _ _)

theorem encodeTargets_length (ts : List U24) : (encodeTargets ts).length = 3 * ts.length := targetBytes_length ts

theorem byteAt_encodeTargets (ts : List U24) (rest : List Byte) (k : Nat) :
    byteAt (encodeTargets ts ++ rest) (3 * ts.length + k) = byteAt rest k := by
  rw [← encodeTargets_length, byteAt_append_right]

theorem rdU24_wrU24_setWidth (t : U24) (rest : List Byte) : rdU24 (wrU24 (t.setWidth 32) ++ rest) 0 = t := by
  rw [rdU24_wrU24_append, BitVec.setWidth_setWidth_of_le t (by decide), BitVec.setWidth_eq]

/-- The read after the targets is the segment's time. -/
theorem rdU24_encodeFields (ts : List U24) (time : U24) (key : Byte) (abs wfs : Bool) (extra : List Byte) :
    rdU24 (encodeTargets ts ++ (encodeFields time key abs wfs ++ extra)) (3 * ts.length) = time := by
  rw [← encodeTargets_length, encodeFields, List.append_assoc]
  exact (rdU24_append_right _ _ 0).trans (rdU24_wrU24_setWidth time _)

/-- The reads at `3i` give back the targets that were written one after the other. -/
theorem map_rdU24_encodeTargets (ts : List U24) (rest : List Byte) :
    (List.range ts.length).map (fun i => rdU24 (encodeTargets ts ++ rest) (3 * i)) = ts := by
  induction ts with
  | nil => rfl
  | cons t ts ih =>
    have hcons : encodeTargets (t :: ts) ++ rest = wrU24 (t.setWidth 32) ++ (encodeTargets ts ++ rest) := by
      rw [encodeTargets, List.flatMap_cons, List.append_assoc, encodeTargets]
    have hnext (i : Nat) : rdU24 (wrU24 (t.setWidth 32) ++ (encodeTargets ts ++ rest)) (3 * (i + 1)) =
        rdU24 (encodeTargets ts ++ rest) (3 * i) := by
      rw [Nat.mul_succ, Nat.add_comm]
      exact rdU24_append_right (wrU24 (t.setWidth 32)) _ _
    rw [hcons, List.length_cons, List.range_succ_eq_map, List.map_cons, List.map_map, Nat.mul_zero,
      rdU24_wrU24_setWidth]
    exact congrArg (t :: ·) ((List.map_congr_left fun i _ => hnext i).trans ih)

/-- STEP_REQUEST's payload is long enough and its flags are 0 or 1, and every read sees its own operand. -/
theorem decodeStepRequest_encode (ts : List U24) (time : U24) (key : Byte) (abs wfs : Bool) (extra : List Byte) :
    decodeStepRequest ts.length ((encode (.stepRequest ts time key abs wfs)).2 ++ extra) =
      .ok (.stepRequest ts time key abs wfs) := by
  rw [encode_stepRequest, List.append_assoc]
  have hkey : byteAt (encodeFields time key abs wfs ++ extra) 3 = key := rfl
  have habs : byteAt (encodeFields time key abs wfs ++ extra) 4 = flagByte abs := rfl
  have hwfs : byteAt (encodeFields time key abs wfs ++ extra) 5 = flagByte wfs := rfl
  have hfields : (encodeFields time key abs wfs).length = 6 := rfl
  rcases decodeStepRequest_cases ts.length (encodeTargets ts ++ (encodeFields time key abs wfs ++ extra)) with
    ⟨hshort, _⟩ | ⟨_, hflag, _⟩ | ⟨_, _, heq⟩
  · rw [List.length_append, List.length_append, encodeTargets_length, hfields] at hshort
    omega
  · rw [byteAt_encodeTargets, byteAt_encodeTargets, habs, hwfs] at hflag
    exact absurd ⟨flagByte_le abs, flagByte_le wfs⟩ hflag
  · simp only [heq, byteAt_encodeTargets, hkey, habs, hwfs, rdU24_encodeFields, map_rdU24_encodeTargets,
      flagByte_beq_one]

theorem take_succ_byteAt {P : List Byte} {k : Nat} (h : k < P.length) : P.take (k + 1) = P.take k ++ [byteAt P k] := by
  rw [List.take_succ_eq_append_getElem h, byteAt, List.getD_eq_getElem _ _ h]

theorem take_add_three {P : List Byte} {k : Nat} (h : k + 3 ≤ P.length) :
    P.take (k + 3) = P.take k ++ [byteAt P k, byteAt P (k + 1), byteAt P (k + 2)] := by
  rw [take_succ_byteAt h, take_succ_byteAt (Nat.lt_of_succ_lt h), take_succ_byteAt (by omega), List.append_assoc,
    List.append_assoc]
  rfl

/-- Writing the targets that were read gives the bytes they were read from. -/
theorem encodeTargets_map_rdU24 {P : List Byte} {n : Nat} (h : 3 * n ≤ P.length) :
    encodeTargets ((List.range n).map fun i => rdU24 P (3 * i)) = P.take (3 * n) := by
  induction n with
  | zero => rfl
  | succ n ih =>
    have hprev : encodeTargets ((List.range n).map fun i => rdU24 P (3 * i)) = P.take (3 * n) := ih (by omega)
    calc encodeTargets ((List.range (n + 1)).map fun i => rdU24 P (3 * i))
        = P.take (3 * n) ++ wrU24 ((rdU24 P (3 * n)).setWidth 32) := by
          rw [← hprev]
          simp only [encodeTargets, List.range_succ, List.map_append, List.flatMap_append, List.map_singleton,
            List.flatMap_singleton]
      _ = P.take (3 * (n + 1)) := by
          rw [wrU24_rdU24, Nat.mul_succ, take_add_three (k := 3 * n) h]

theorem encode_decodeStepRequest {n : Nat} {P : List Byte} {i : Instr} (h : decodeStepRequest n P = .ok i) :
    i.wellFormed n = true ∧ encode i = (13, P.take (3 * n + 6)) ∧ payloadLength n i = 3 * n + 6 ∧
      3 * n + 6 ≤ P.length := by
  rcases decodeStepRequest_cases n P with ⟨_, heq⟩ | ⟨_, _, heq⟩ | ⟨hlen, ⟨habs, hwfs⟩, heq⟩ <;>
    cases h.symm.trans heq
  refine ⟨by simp [Instr.wellFormed], ?_, rfl, hlen⟩
  rw [encode_stepRequest, encodeFields, encodeTargets_map_rdU24 (by omega), wrU24_rdU24, flagByte_of_le habs,
    flagByte_of_le hwfs, take_add_three (k := 3 * n + 3) hlen, take_add_three (by omega), List.append_assoc]

/-! ### The obligations -/

/-- Settles O2: by the command; STEP_REQUEST's reads see the bytes their operands were written to. -/
theorem decodeOfEncode : Obligations.DecodeOfEncode := by
  intro n i extra hwf
  cases i with
  | stepRequest ts time key abs wfs =>
    obtain rfl : ts.length = n := by simpa [Instr.wellFormed] using hwf
    exact decodeStepRequest_encode ts time key abs wfs extra
  | enableDrivers b => rfl
  | sync | vrefExternal | getPosition | getStatus | pwmExternal => rfl

/-- Settles O3: by what the decoder can answer. -/
theorem encodeOfDecode : Obligations.EncodeOfDecode := by
  intro n port P i h
  rcases decode_cases n port P with ⟨j, hmem, heq⟩ | ⟨rfl, heq⟩ | ⟨rfl, heq⟩ | ⟨_, heq⟩ <;> rw [heq] at h
  · cases h
    obtain ⟨hwf, henc, hlen⟩ := portOnly_encode hmem n
    rw [henc, hlen]
    exact ⟨hwf, rfl, rfl, Nat.zero_le _⟩
  · rcases decodeEnableDrivers_cases P with ⟨_, hdec⟩ | ⟨hlen, hdec⟩ <;> cases h.symm.trans hdec
    exact ⟨rfl, rfl, (take_succ_byteAt hlen).symm, hlen⟩
  · obtain ⟨hwf, henc, hpay, hlen⟩ := encode_decodeStepRequest h
    rw [henc, hpay]
    exact ⟨hwf, rfl, rfl, hlen⟩
  · cases h

/-- Settles O4: by what the decoder can answer, each answer with its own condition on the port and the payload. -/
theorem decodeRejectsExactly : Obligations.DecodeRejectsExactly := by
  intro n port P
  rcases decode_cases n port P with ⟨i, hmem, heq⟩ | ⟨rfl, heq⟩ | ⟨rfl, heq⟩ | ⟨hport, heq⟩ <;> rw [heq]
  · have hport : port.toNat ∈ [8, 11, 12, 13, 14, 15, 16] :=
      (by decide : [8, 11, 14, 15, 16] ⊆ [8, 11, 12, 13, 14, 15, 16]) (portOnly_port hmem)
    have h12 : port ≠ 12 := fun h => absurd (h ▸ portOnly_port hmem) (by decide)
    have h13 : port ≠ 13 := fun h => absurd (h ▸ portOnly_port hmem) (by decide)
    simp only [h12, h13, hport, reduceCtorEq, not_true_eq_false, false_and, or_self, and_self]
  · rcases decodeEnableDrivers_cases P with ⟨hlen, hdec⟩ | ⟨hlen, hdec⟩
    · simp [hdec, hlen]
    · simp [hdec, List.ne_nil_of_length_pos hlen]
  · rcases decodeStepRequest_cases n P with ⟨hlen, hdec⟩ | ⟨hlen, hflag, hdec⟩ | ⟨hlen, hflag, hdec⟩
    · simp [hdec, hlen]
    · simp [hdec, hlen, hflag]
    · simp [hdec, hlen, hflag]
  · have h12 : port ≠ 12 := fun h => hport (h ▸ by decide)
    have h13 : port ≠ 13 := fun h => hport (h ▸ by decide)
    simp only [h12, h13, hport, reduceCtorEq, Except.error.injEq, not_false_eq_true, false_and, or_self, and_self]

/-- Settles O1: the words are closed, so the decoder computes. -/
theorem specWordsDecode : Obligations.SpecWordsDecode := by
  unfold Obligations.SpecWordsDecode
  decide

end Sys2Proof
end

section
/-! PROOFS. When a command stops (30_encoding.md R73, R74; log 10, log 14, log 15): a command that decodes is
well-formed, and every well-formed command completes. -/

namespace Sys2Proof.Machine

theorem execSync_completes (s : State) : Completes (execSync s) := by
  unfold execSync
  split <;> exact ⟨_, rfl⟩

theorem execStepRequest_completes {targets : List U24} {s : State} (h : targets.length = s.cfg.n) (time : U24)
    (key : Byte) (abs wfs : Bool) : Completes (execStepRequest targets time key abs wfs s) := by
  rcases execStepRequest_cases h time key abs wfs with ⟨_, heq⟩ | ⟨_, heq⟩ <;> exact ⟨_, heq⟩

/-- A well-formed command answers a next state, in every state. -/
theorem exec_completes {i : Instr} {s : State} (h : i.wellFormed s.cfg.n = true) : Completes (exec i s) := by
  cases i with
  | sync => exact execSync_completes s
  | stepRequest => exact execStepRequest_completes (of_decide_eq_true h) _ _ _ _
  | enableDrivers | getPosition | getStatus | vrefExternal | pwmExternal => exact ⟨_, rfl⟩

/-! ### A command by its decoding -/

section
variable {s : State} {port : Byte} {P : List Byte}

theorem runCommand_ok {i : Instr} (h : decode s.cfg.n port P = .ok i) : runCommand port P s = exec i s := by
  simp only [runCommand, h]

theorem runCommand_unknownPort (h : decode s.cfg.n port P = .error .unknownPort) :
    runCommand port P s = .next s := by
  simp only [runCommand, h]

theorem runCommand_shortPayload (h : decode s.cfg.n port P = .error .shortPayload) :
    runCommand port P s = .refused .shortPayload := by
  simp only [runCommand, h]

theorem runCommand_reservedFlagValue (h : decode s.cfg.n port P = .error .reservedFlagValue) :
    runCommand port P s = .refused .reservedFlagValue := by
  simp only [runCommand, h]

/-- A command the decoder gives is well-formed, and an unknown port is ignored. -/
theorem runCommand_completes (hshort : decode s.cfg.n port P ≠ .error .shortPayload)
    (hflag : decode s.cfg.n port P ≠ .error .reservedFlagValue) : Completes (runCommand port P s) := by
  cases hdec : decode s.cfg.n port P with
  | ok i =>
    rw [runCommand_ok hdec]
    exact exec_completes (encodeOfDecode _ _ _ _ hdec).1
  | error e =>
    cases e with
    | unknownPort => exact ⟨s, runCommand_unknownPort hdec⟩
    | shortPayload => exact absurd hdec hshort
    | reservedFlagValue => exact absurd hdec hflag

end

/-! ### The obligations -/

/-- Settles O41: the step runs the command on the state with its input taken, which has the same axes. -/
theorem commandsStopOnlyOutsideTheSchema : Obligations.CommandsStopOnlyOutsideTheSchema := by
  intro s port P rest hin
  rw [step_command hin]
  exact ⟨fun h => runCommand_shortPayload h, fun h => runCommand_reservedFlagValue h,
    fun hshort hflag => runCommand_completes hshort hflag⟩

/-- Settles O34: the length test of STEP_REQUEST fails, and what the decoder gives passes it. -/
theorem stepRequestStopsOnIllFormedTerms : Obligations.StepRequestStopsOnIllFormedTerms := by
  intro targets time key abs wfs s hne
  refine ⟨if_neg hne, fun port P hdec => hne ?_⟩
  exact of_decide_eq_true (encodeOfDecode _ _ _ _ hdec).1

end Sys2Proof.Machine
end

section
/-! PROOFS. The motion buffer: what its two operations write, what its fullness counts, and that a queued segment
outlives every operation but the load that takes it (41_motion_buffer.md R80 to R84). -/

namespace Sys2Proof.Machine

/-! ### The two operations (R81, R82) -/

theorem State.headReady_iff {s : State} : s.headReady = true ↔
    s.readPosition ≠ s.writePosition ∧ (s.slotAt s.headIndex).waitForSync = false := by
  simp [State.headReady]

/-- Settles O8: by enqueue's two outcomes; a read of the slot RAM after its one write. -/
theorem enqueueWritesOneSlotOrNothing : Obligations.EnqueueWritesOneSlotOrNothing := by
  intro seg s
  rcases enqueue_cases seg s with ⟨hfull, heq⟩ | ⟨hfull, heq⟩ <;> rw [heq]
  · have hnext : nextIndex s.cfg.c s.writePosition = s.readPosition := by simpa [State.bufferFull] using hfull
    exact ⟨iff_of_true rfl hnext, fun _ => rfl, fun hok => nomatch hok⟩
  · have hok : EnqueueResult.ok ≠ .full := nofun
    exact ⟨iff_of_false hok (bufferFull_eq_false_iff.mp hfull), fun e => absurd e hok,
      fun _ => ⟨_, rfl, rfl, slotAt_writeSlot_same _ seg s, fun _ hp => slotAt_writeSlot_other hp seg s⟩⟩

/-- Settles O11: each outcome has its lemma, and `afterLoad` is the state the last one names. -/
theorem tryLoadNextOutcomes : Obligations.TryLoadNextOutcomes :=
  fun _ => ⟨tryLoadNext_empty, tryLoadNext_blocked, fun hne hw => tryLoadNext_ok (State.headReady_iff.mpr ⟨hne, hw⟩)⟩

/-! ### Occupancy (R80) -/

namespace State.Inv

/-- The slot after the newest queued one is `readPosition` when the occupancy is all but one of the slots. -/
theorem bufferFull_iff {s : State} (h : s.Inv) : s.bufferFull = true ↔ s.occupancy + 1 = s.cfg.c := by
  have hnext : distance s.cfg.c s.readPosition (nextIndex s.cfg.c s.writePosition) =
      if s.occupancy + 1 = s.cfg.c then 0 else s.occupancy + 1 := distance_to_next h.c_le h.read_lt h.write_lt
  calc s.bufferFull = true
    _ ↔ nextIndex s.cfg.c s.writePosition = s.readPosition := beq_iff_eq
    _ ↔ distance s.cfg.c s.readPosition (nextIndex s.cfg.c s.writePosition) = 0 :=
      (distance_eq_zero_iff h.read_lt (h.nextIndex_lt _)).symm
    _ ↔ s.occupancy + 1 = s.cfg.c := by rw [hnext]; split <;> omega

theorem bufferEmpty_iff {s : State} (h : s.Inv) : s.bufferEmpty = true ↔ s.occupancy = 0 :=
  beq_iff_eq.trans (distance_eq_zero_iff h.read_lt h.write_lt).symm

theorem occupancy_lt {s : State} (h : s.Inv) : s.occupancy < s.cfg.c :=
  distance_lt (Nat.zero_lt_of_lt h.two_le_c) _ _

end State.Inv

/-- Settles O10: the occupancy is a distance, so it is below `C`, and the two tests compare the ends of the way. -/
theorem fullnessIsOccupancy : Obligations.FullnessIsOccupancy := by
  intro s h
  have hlt := h.occupancy_lt
  exact ⟨by omega, h.bufferFull_iff.trans (by omega), h.bufferEmpty_iff⟩

/-! ### A stalled generator (R84, 60_exceptions.md R148) -/

theorem tick_empty {s : State} (h0 : s.timeRemaining = 0) (h : s.readPosition = s.writePosition) :
    tick s = .next s := by
  rw [tick_of_stepPart (stepPart_idle h0), loadPart_empty h]

theorem tick_blocked {s : State} (h0 : s.timeRemaining = 0) (h : s.readPosition ≠ s.writePosition)
    (hw : (s.slotAt s.headIndex).waitForSync = true) : tick s = .next (s.setWaitingForSync true) := by
  rw [tick_of_stepPart (stepPart_idle h0), loadPart_blocked h0 h hw]

theorem ticks_succ {s t : State} (h : tick s = .next t) (n : Nat) : ticks (n + 1) s = ticks n t := by
  simp only [ticks, h]

/-- A state that one TICK leaves as it is, any number of them does. -/
theorem ticks_of_tick_self {s : State} (h : tick s = .next s) (n : Nat) : ticks n s = .next s := by
  induction n with
  | zero => rfl
  | succ n ih => rw [ticks_succ h, ih]

/-- Settles O31: the first TICK finds the stall and raises the flag for a waiting head; every later one changes
nothing. -/
theorem ticksNeverLiftAStall : Obligations.TicksNeverLiftAStall := by
  intro n s h0
  refine ⟨fun hempty => ticks_of_tick_self (tick_empty h0 hempty) n, fun hne hw hn => ?_⟩
  obtain ⟨n, rfl⟩ := Nat.exists_eq_add_of_le' hn
  rw [ticks_succ (tick_blocked h0 hne hw)]
  exact ticks_of_tick_self (tick_blocked (s := s.setWaitingForSync true) h0 hne hw) n

/-! ### A queued segment over a TICK (R83) -/

/-- When `readPosition` advances by one, only the head leaves the queue. -/
theorem State.Queued.of_advanceRead {s t : State} {p : Byte} (h : s.Inv) (hq : s.Queued p) (hp : p ≠ s.headIndex)
    (hcfg : t.cfg = s.cfg) (hread : t.readPosition = s.headIndex) (hwrite : t.writePosition = s.writePosition) :
    t.Queued p := by
  obtain ⟨hlt, h1, hle⟩ := hq
  have hone : distance s.cfg.c s.readPosition s.headIndex = 1 := distance_next h.two_le_c h.c_le h.read_lt
  have hne : distance s.cfg.c s.readPosition p ≠ 1 := fun e =>
    hp (distance_inj h.read_lt hlt (h.nextIndex_lt _) (e.trans hone.symm))
  have hdist : distance s.cfg.c s.readPosition p = distance s.cfg.c s.headIndex p + 1 :=
    distance_step h.c_le h.read_lt hlt h1
  have hocc : s.occupancy = distance s.cfg.c s.headIndex s.writePosition + 1 :=
    distance_step h.c_le h.read_lt h.write_lt (Nat.le_trans h1 hle)
  unfold State.Queued State.occupancy
  rw [hcfg, hread, hwrite]
  exact ⟨hlt, by omega, by omega⟩

theorem loadPart_slotAt (s : State) (p : Byte) : (loadPart s).slotAt p = s.slotAt p := by
  rcases loadPart_cases s with heq | ⟨_, _, _, heq⟩ | ⟨_, _, heq⟩ <;> rw [heq]
  · rfl
  · rw [loadSegment_eq]; rfl

/-- The load takes the head, which does not wait, and part 2 takes nothing else from the queue. -/
theorem loadPart_queued {s : State} {p : Byte} (h : s.Inv) (hq : s.Queued p) : (loadPart s).Queued p ∨
    ((loadPart s).readPosition = p ∧ p = s.headIndex ∧ (s.slotAt p).waitForSync = false) := by
  rcases loadPart_cases s with heq | ⟨_, _, _, heq⟩ | ⟨_, hready, heq⟩ <;> rw [heq]
  · exact .inl hq
  · exact .inl hq
  · rw [loadSegment_eq]
    by_cases hp : p = s.headIndex
    · exact .inr ⟨hp.symm, hp, hp ▸ (State.headReady_iff.mp hready).2⟩
    · exact .inl (hq.of_advanceRead h hp rfl rfl rfl)

theorem tick_slotAt {s t : State} (hs : tick s = .next t) (p : Byte) : t.slotAt p = s.slotAt p := by
  obtain ⟨u, hstep, rfl⟩ := tick_next hs
  rw [loadPart_slotAt, stepPart_frame hstep]
  rfl

/-- Over a TICK a queued segment stays queued or is the head that is loaded: part 1 does not touch the buffer. -/
theorem tick_queued {s t : State} {p : Byte} (h : s.Inv) (hq : s.Queued p) (hs : tick s = .next t) : t.Queued p ∨
    (t.readPosition = p ∧ p = s.headIndex ∧ (s.slotAt p).waitForSync = false) := by
  obtain ⟨u, hstep, rfl⟩ := tick_next hs
  have hu := stepPart_inv h hstep
  rw [stepPart_frame hstep] at hu ⊢
  exact loadPart_queued hu hq

/-! ### A queued segment over a command (R83, 44_commands.md R126) -/

/-- SYNC leaves a record as it is or takes a set `waitForSync` from it. -/
theorem releaseOldest_slotAt {s : State} (h : s.Inv) (p : Byte) : (releaseOldest s).slotAt p = s.slotAt p ∨
    ((s.slotAt p).waitForSync = true ∧
      (releaseOldest s).slotAt p = { s.slotAt p with waitForSync := false }) := by
  have hlt := distance_lt (Nat.zero_lt_of_lt h.two_le_c) s.syncSearchPosition s.writePosition
  rcases releaseOldest_cases s with ⟨r, hscan, heq⟩ | ⟨_, heq⟩ <;> rw [heq]
  · obtain ⟨_, _, _, hwaits, _⟩ := scanForWaiting_some h.two_le_c h.c_le h.sync_lt hlt hscan
    by_cases hp : p = r
    · exact .inr ⟨hp ▸ hwaits, hp ▸ slotAt_clearWaitForSync_same r s⟩
    · exact .inl (slotAt_clearWaitForSync_other hp s)
  · exact .inl rfl

theorem releaseOldest_queued {s : State} {p : Byte} (hq : s.Queued p) : (releaseOldest s).Queued p := by
  rcases releaseOldest_cases s with ⟨_, _, heq⟩ | ⟨_, heq⟩ <;> rw [heq] <;> exact hq

/-- STEP_REQUEST writes no queued slot (20_memory.md R54) and takes none from the queue. -/
theorem execStepRequest_queued {targets : List U24} {time : U24} {key : Byte} {abs wfs : Bool} {s t : State}
    {p : Byte} (h : s.Inv) (hq : s.Queued p) (hs : execStepRequest targets time key abs wfs s = .next t) :
    t.Queued p ∧ t.slotAt p = s.slotAt p := by
  rcases execStepRequest_cases (execStepRequest_next hs) time key abs wfs with ⟨_, heq⟩ | ⟨hfull, heq⟩ <;>
    cases hs.symm.trans heq
  · exact ⟨hq, rfl⟩
  · obtain ⟨hspared, _, _, hqueued⟩ := enqueueSparesLiveSlots (segmentOf s.cfg.sb targets time key abs wfs) s h
      (enqueue_eq_ok_iff.mpr hfull)
    rw [enqueue_ok hfull] at hqueued
    have hp : p ≠ nextIndex s.cfg.c s.writePosition := fun e => hspared (by rwa [e] at hq)
    exact ⟨(hqueued p).mpr (.inl hq), slotAt_writeSlot_other hp _ s⟩

/-- What SYNC with a handler may do to the record of slot `p`: take a set `waitForSync` from it. -/
def ReleasesSlot (s t : State) (p : Byte) : Prop :=
  s.cfg.hasSync = true ∧ (s.slotAt p).waitForSync = true ∧ t.slotAt p = { s.slotAt p with waitForSync := false }

theorem execSync_queued {s t : State} {p : Byte} (h : s.Inv) (hq : s.Queued p) (hs : execSync s = .next t) :
    t.Queued p ∧ (t.slotAt p = s.slotAt p ∨ ReleasesSlot s t p) := by
  rcases execSync_next hs with ⟨hsync, rfl⟩ | ⟨_, rfl⟩
  · have hq' : (realignTimer s).Queued p := by rw [realignTimer_eq]; exact hq
    have hslot := releaseOldest_slotAt h.realignTimer p
    rw [realignTimer_slotAt] at hslot
    exact ⟨releaseOldest_queued hq', hslot.imp_right fun hrel => ⟨hsync, hrel⟩⟩
  · exact ⟨hq, .inl rfl⟩

/-- No command takes a segment from the queue, and only SYNC changes the record of a queued one. -/
theorem exec_queued {i : Instr} {s t : State} {p : Byte} (h : s.Inv) (hq : s.Queued p) (hs : exec i s = .next t) :
    t.Queued p ∧ (t.slotAt p = s.slotAt p ∨ (i = .sync ∧ ReleasesSlot s t p)) := by
  cases i with
  | sync => exact (execSync_queued h hq hs).imp_right (Or.imp_right fun hrel => ⟨rfl, hrel⟩)
  | stepRequest => exact (execStepRequest_queued h hq hs).imp_right .inl
  | enableDrivers | getPosition | getStatus | vrefExternal | pwmExternal => cases hs; exact ⟨hq, .inl rfl⟩

/-- Settles O12: by the event the step performs. The clock and an unknown port leave the buffer alone, a TICK may load
the head, a command may release a slot. -/
theorem queuedSegmentsSurviveAStep : Obligations.QueuedSegmentsSurviveAStep := by
  intro s t p h hq hreset hs
  have h' := h.takeEvent
  rcases step_next hs with ⟨he, _⟩ | ⟨_, _, rfl⟩ | ⟨_, _, htick⟩ | ⟨_, _, _, _, rfl⟩ | ⟨port, P, i, he, hdec, hexec⟩
  · exact absurd he hreset
  · exact ⟨.inl rfl, .inl hq⟩
  · have hslot : t.slotAt p = s.slotAt p := tick_slotAt htick p
    refine ⟨.inl hslot, (tick_queued (h'.setTcnt h.timebase_pos) hq htick).imp_right ?_⟩
    rintro ⟨hread, hhead, hw⟩
    exact ⟨hread, hhead, hw, hslot⟩
  · exact ⟨.inl rfl, .inl hq⟩
  · obtain ⟨hqueued, hslot⟩ := exec_queued h' hq hexec
    refine ⟨hslot.imp_right ?_, .inl hqueued⟩
    rintro ⟨rfl, hsync, hwaits, hrel⟩
    obtain rfl : 8 = port := (encodeOfDecode _ _ _ _ hdec).2.1
    exact ⟨hwaits, hrel, hsync, P, he⟩

end Sys2Proof.Machine
end

section
/-! PROOFS. The segment loader: what a load makes of each axis, and what a TICK makes of each outcome of tryLoadNext
(42_segment_loader.md R90 to R98). -/

namespace Sys2Proof.Machine

/-! ### What a load writes (R90 to R93, R95) -/

theorem axisDelta_toInt (seg : Slot) (i : Nat) (position : Word) : (axisDelta seg i position).toInt =
    if seg.absolute then ((seg.target.getD i 0).toInt - position.toInt).bmod 4294967296
      else (seg.target.getD i 0).toInt := by
  unfold axisDelta
  split
  · exact BitVec.toInt_sub ..
  · rfl

theorem loadSegment_axes (s : State) :
    (loadSegment s).axes = s.axes.mapIdx (loadAxis (s.slotAt s.readPosition)) := rfl

theorem loadSegment_axes_getElem? (s : State) (i : Nat) :
    (loadSegment s).axes[i]? = (s.axes[i]?).map (loadAxis (s.slotAt s.readPosition) i) := by
  rw [loadSegment_axes, List.getElem?_mapIdx]

@[simp] theorem loadSegment_axes_length (s : State) : (loadSegment s).axes.length = s.axes.length := by
  rw [loadSegment_axes, List.length_mapIdx]

/-- The `dir` outputs mirror the new directions right after the load. -/
theorem loadSegment_out (s : State) :
    (loadSegment s).out = s.out ++ [.dir (loadSegment s).dirLevels, .enableN false] := by
  rw [loadSegment_eq]
  rfl

theorem loadSegment_frame (s : State) :
    loadSegment s = { s with
      axes := (loadSegment s).axes
      segmentKey := (loadSegment s).segmentKey
      bresenhamThreshold := (loadSegment s).bresenhamThreshold
      totalTime := (loadSegment s).totalTime
      timeRemaining := (loadSegment s).timeRemaining
      driversEnabled := (loadSegment s).driversEnabled
      out := (loadSegment s).out } := rfl

@[simp] theorem loadSegment_timeRemaining (s : State) :
    (loadSegment s).timeRemaining = (s.slotAt s.readPosition).segmentTime := rfl

@[simp] theorem loadSegment_segmentKey (s : State) :
    (loadSegment s).segmentKey = (s.slotAt s.readPosition).segmentKey := rfl

@[simp] theorem loadSegment_readPosition (s : State) : (loadSegment s).readPosition = s.readPosition := rfl

@[simp] theorem loadSegment_driversEnabled (s : State) : (loadSegment s).driversEnabled = true := rfl

/-- A load reads the ledger and leaves it alone. -/
theorem loadSegment_positions (s : State) :
    (loadSegment s).axes.map Axis.position = s.axes.map Axis.position := by
  refine List.ext_getElem? fun i => ?_
  rw [List.getElem?_map, loadSegment_axes_getElem?, List.getElem?_map, Option.map_map]
  rfl

theorem loadSegment_pulseCount (s : State) (i : Nat) : (loadSegment s).pulseCount i = s.pulseCount i := by
  unfold State.pulseCount
  rw [loadSegment_out, List.countP_append]
  rfl

/-- The level a load drives on one `dir` output, by the sign of the axis's delta. -/
theorem loadSegment_dirLevels_getElem? {s : State} {i : Nat} {a : Axis} (h : s.axes[i]? = some a) :
    (loadSegment s).dirLevels[i]? = some
      (if (axisDelta (s.slotAt s.readPosition) i a.position).toInt < 0 then !(s.cfg.dirForwardLevel.getD i true)
        else s.cfg.dirForwardLevel.getD i true) := by
  rw [dirLevels_getElem?, loadSegment_axes_getElem?, h, ← dirLevel_directionOf]
  rfl

/-- Settles O13: the registers of the load by its equation; each axis by the sign and the magnitude of its delta. -/
theorem loadSegmentEffect : Obligations.LoadSegmentEffect := by
  intro s
  refine ⟨loadSegment s, s.slotAt s.readPosition, (loadSegment s).dirLevels, rfl, rfl, rfl, rfl, rfl,
    BitVec.toNat_udiv, rfl, loadSegment_axes_length s, ?_, rfl, ?_, ?_⟩
  · rw [dirLevels_length, loadSegment_axes_length]
  · intro i a b ha hb
    obtain rfl : loadAxis (s.slotAt s.readPosition) i a = b := by
      rw [loadSegment_axes_getElem?, ha] at hb
      exact Option.some.inj hb
    exact ⟨_, axisDelta_toInt .., directionOf_eq_backward_iff, loadSegment_dirLevels_getElem? ha,
      magnitudeOf_toNat _, rfl, rfl, rfl⟩
  · rw [← loadSegment_out]
    exact loadSegment_frame s

/-! ### What a TICK makes of an outcome of tryLoadNext (R95, R97, R98) -/

theorem tryLoadNext_eq_ok_iff {s : State} : (tryLoadNext s).1 = .ok ↔ s.headReady = true := by
  rcases tryLoadNext_cases s with ⟨h, heq⟩ | ⟨_, hw, heq⟩ | ⟨h, heq⟩ <;> rw [heq]
  · exact iff_of_false nofun fun hready => (State.headReady_iff.mp hready).1 h
  · exact iff_of_false nofun fun hready => Bool.false_ne_true ((State.headReady_iff.mp hready).2.symm.trans hw)
  · exact iff_of_true rfl h

/-- Part 2 without a load changes at most `waitingForSync`. -/
theorem loadPart_of_not_ok {s : State} (h : ¬ (s.timeRemaining = 0 ∧ (tryLoadNext s).1 = .ok)) :
    ∃ b, loadPart s = { s with waitingForSync := b } := by
  rcases loadPart_cases s with heq | ⟨_, _, _, heq⟩ | ⟨h0, hready, _⟩
  · exact ⟨s.waitingForSync, heq⟩
  · exact ⟨true, heq⟩
  · exact absurd ⟨h0, tryLoadNext_eq_ok_iff.mpr hready⟩ h

/-- One firing less is to come after part 1; an idle generator stays idle. -/
theorem stepPart_timeRemaining {s t : State} (h : stepPart s = .next t) :
    t.timeRemaining.toNat = s.timeRemaining.toNat - 1 := by
  rcases stepPart_next h with ⟨h0, rfl⟩ | ⟨hne, _, rfl⟩
  · simp [h0]
  · rw [stepFiring_timeRemaining]
    bv_omega

theorem tick_eq_loadPart {s t u : State} (hs : stepPart s = .next t) (hu : tick s = .next u) : u = loadPart t :=
  Host.Outcome.next.inj (hu.symm.trans (tick_of_stepPart hs))

/-- A TICK from idle with a loadable head is the load alone. -/
theorem tick_load {s : State} (h0 : s.timeRemaining = 0) (h : s.headReady = true) :
    tick s = .next (loadSegment (afterLoad s)) := by
  rw [tick_of_stepPart (stepPart_idle h0), loadPart_ok h0 h]

/-- Settles O14: part 1 keeps the drivers as they are, and of part 2 only the load writes them. -/
theorem everyLoadWakesTheDrivers : Obligations.EveryLoadWakesTheDrivers := by
  intro s t u hs hu
  obtain rfl := tick_eq_loadPart hs hu
  constructor
  · intro h0 hok
    rw [loadPart_ok h0 (tryLoadNext_eq_ok_iff.mp hok)]
    exact ⟨loadSegment_driversEnabled _, rfl⟩
  · intro hno
    obtain ⟨b, heq⟩ := loadPart_of_not_ok hno
    rw [heq, stepPart_frame hs]

/-- Settles O15: from idle the TICK is the load, and the load of a zero time leaves the block idle again. -/
theorem zeroTimeSegmentOnlyLoads : Obligations.ZeroTimeSegmentOnlyLoads := by
  intro s h0 hne hw htime
  exact ⟨_, tick_load h0 (State.headReady_iff.mpr ⟨hne, hw⟩), (loadSegment_timeRemaining _).trans htime,
    loadSegment_readPosition _, loadSegment_segmentKey _, loadSegment_driversEnabled _, loadSegment_positions _,
    loadSegment_pulseCount _⟩

/-- Settles O28: the time left after part 1 decides whether part 2 tries a load; then by the try's outcome. -/
theorem loaderStateMachine : Obligations.LoaderStateMachine := by
  intro s t u hs hu
  obtain rfl := tick_eq_loadPart hs hu
  have htime := stepPart_timeRemaining hs
  constructor
  · intro hmore
    have hrunning : t.timeRemaining ≠ 0 := by bv_omega
    rw [loadPart_running hrunning]
    exact ⟨htime, rfl⟩
  · intro hlast
    have h0 : t.timeRemaining = 0 := by bv_omega
    refine ⟨h0, ?_⟩
    rcases tryLoadNext_cases t with ⟨h, heq⟩ | ⟨h, hw, heq⟩ | ⟨h, heq⟩ <;> rw [heq]
    · exact ⟨fun _ => loadPart_empty h, nofun, nofun⟩
    · exact ⟨nofun, fun _ => loadPart_blocked h0 h hw, nofun⟩
    · rw [loadPart_ok h0 h]
      exact ⟨nofun, nofun, fun _ => ⟨rfl, loadSegment_timeRemaining _, loadSegment_readPosition _,
        loadSegment_segmentKey _⟩⟩

end Sys2Proof.Machine
end

section
/-! PROOFS. One axis over any number of stepping firings (43_step_generator.md R102, R105 to R108): its accumulator in
exact integers, the steps it has emitted, and the firings that emit them. -/

namespace Sys2Proof.Machine

/-! ### One firing (R102, R105, R108) -/

theorem accumOverflows_eq_false_iff {threshold totalTime : Word} {a : Axis} :
    accumOverflows threshold totalTime a = false ↔ accumSum a ≤ 2147483647 ∧
      ((threshold.toNat : Int) < accumSum a → -2147483648 ≤ accumSum a - totalTime.toNat) := by
  have hge := accumSum_ge a
  simp only [accumOverflows, accumNext, Bool.or_eq_false_iff, Bool.not_eq_false', fitsS32_iff, crosses_iff]
  split <;> omega

theorem accumOverflows_iff {threshold totalTime : Word} {a : Axis} :
    accumOverflows threshold totalTime a = true ↔ 2147483647 < accumSum a ∨
      ((threshold.toNat : Int) < accumSum a ∧ accumSum a - totalTime.toNat < -2147483648) := by
  rw [← Bool.not_eq_false, accumOverflows_eq_false_iff]
  omega

theorem stepAxis_stepsRemaining (threshold totalTime : Word) (a : Axis) :
    (stepAxis threshold totalTime a).stepsRemaining = a.stepsRemaining - if crosses threshold a then 1 else 0 := by
  unfold stepAxis
  split
  · rfl
  · exact (BitVec.sub_zero _).symm

theorem stepAxis_position (threshold totalTime : Word) (a : Axis) :
    (stepAxis threshold totalTime a).position =
      a.position + if crosses threshold a then a.direction.delta else 0 := by
  unfold stepAxis
  split
  · rfl
  · exact (BitVec.add_zero _).symm

theorem Direction.delta_toInt (d : Direction) : d.delta.toInt = if d = .forward then 1 else -1 := by
  cases d <;> rfl

/-! ### Firings in a row -/

/-- The axis with accumulator `x` after emitting `n` steps (R23, R102). -/
def Axis.advance (a : Axis) (x : Int) (n : Nat) : Axis :=
  { a with
    accum := BitVec.ofInt 32 x
    stepsRemaining := a.stepsRemaining - BitVec.ofNat 32 n
    position := a.position + BitVec.ofNat 32 n * a.direction.delta }

theorem Axis.advance_zero {a : Axis} (h : a.accum = 0) : a.advance 0 0 = a := by
  cases a
  cases h
  simp [Axis.advance]

theorem accumSum_advance {a : Axis} {x : Int} (hx : fitsS32 x = true) (n : Nat) :
    accumSum (a.advance x n) = x + a.targetSteps.toNat := by
  rw [accumSum, Axis.advance, toInt_ofInt_of_fits hx]

/-- A firing of an axis that has emitted `n` steps emits the next one exactly when the sum crosses. -/
theorem stepAxis_advance {threshold : Word} {a : Axis} {x : Int} (totalTime : Word) (hx : fitsS32 x = true) (n : Nat) :
    stepAxis threshold totalTime (a.advance x n) =
      if (threshold.toNat : Int) < x + a.targetSteps.toNat then
        a.advance (x + a.targetSteps.toNat - totalTime.toNat) (n + 1)
      else a.advance (x + a.targetSteps.toNat) n := by
  have hcross := crosses_iff (threshold := threshold) (a := a.advance x n)
  rw [accumSum_advance hx] at hcross
  simp only [stepAxis, accumNext, accumSum_advance hx, hcross]
  split
  · have hrem (r : Word) : r - BitVec.ofNat 32 n - 1 = r - BitVec.ofNat 32 (n + 1) := by
      rw [BitVec.ofNat_add]
      exact sub_sub ..
    have hpos (p d : Word) : p + BitVec.ofNat 32 n * d + d = p + BitVec.ofNat 32 (n + 1) * d := by
      rw [BitVec.ofNat_add, BitVec.add_mul, BitVec.one_mul, BitVec.add_assoc]
    simp only [Axis.advance, hrem, hpos]
  · rfl

/-! ### Inside the contract `K ≤ T` (R106) -/

/-- The number of steps is the only one that brings `n * K` less its multiple of `T` into R107's range. -/
theorem stepsAfter_eq_iff {K T n j : Nat} (hT : 1 ≤ T) :
    stepsAfter K T n = j ↔ n * K ≤ j * T + T / 2 ∧ j * T + T / 2 < n * K + T := by
  unfold stepsAfter
  split
  · next hle =>
    constructor
    · rintro rfl
      omega
    · rintro ⟨_, hlt⟩
      by_contra hne
      have : 1 * T ≤ j * T := Nat.mul_le_mul_right T (by omega)
      omega
  · next hgt =>
    rw [Nat.div_eq_iff (by omega)]
    omega

/-- What the accumulator is bounded by after `n` firings (R107). -/
theorem stepsAfter_bounds (K n : Nat) {T : Nat} (hT : 1 ≤ T) :
    n * K ≤ stepsAfter K T n * T + T / 2 ∧ stepsAfter K T n * T + T / 2 < n * K + T :=
  (stepsAfter_eq_iff hT).mp rfl

theorem stepsAfter_zero (K T : Nat) : stepsAfter K T 0 = 0 := by simp [stepsAfter]

theorem stepsAfter_succ {K T : Nat} (hT : 1 ≤ T) (hK : K ≤ T) (n : Nat) : stepsAfter K T (n + 1) =
    if stepsAfter K T n * T + T / 2 < (n + 1) * K then stepsAfter K T n + 1 else stepsAfter K T n := by
  obtain ⟨hle, hlt⟩ := stepsAfter_bounds K n hT
  rw [stepsAfter_eq_iff hT]
  split <;> simp only [Nat.add_mul] at * <;> omega

/-- A segment's `T` firings emit all of its `K` steps. -/
theorem stepsAfter_self {T : Nat} (K : Nat) (hT : 1 ≤ T) : stepsAfter K T T = K := by
  rw [stepsAfter_eq_iff hT, Nat.mul_comm T K]
  omega

/-- The exact accumulator after `n` firings (R106). -/
def accumAfter (K T n : Nat) : Int := n * K - stepsAfter K T n * T

theorem fitsS32_accumAfter {T : Nat} (K n : Nat) (hT : 1 ≤ T) (hlt : T < 16777216) :
    fitsS32 (accumAfter K T n) = true := by
  obtain ⟨h1, h2⟩ := stepsAfter_bounds K n hT
  rw [fitsS32_iff, accumAfter]
  zify at h1 h2
  omega

theorem accumAfter_succ {K T : Nat} (hT : 1 ≤ T) (hK : K ≤ T) (n : Nat) : accumAfter K T (n + 1) =
    accumAfter K T n + K - if stepsAfter K T n * T + T / 2 < (n + 1) * K then (T : Int) else 0 := by
  simp only [accumAfter, stepsAfter_succ hT hK n]
  split <;> push_cast <;> ring

/-- When the next firing's sum crosses the threshold `T / 2`. -/
theorem half_lt_accumAfter_add_iff (K T n : Nat) : ((T / 2 : Nat) : Int) < accumAfter K T n + K ↔
    stepsAfter K T n * T + T / 2 < (n + 1) * K := by
  rw [accumAfter]
  zify
  rw [add_mul]
  omega

section
variable {threshold totalTime : Word} {a : Axis} (h0 : a.accum = 0) (hT : 1 ≤ totalTime.toNat)
  (hlt : totalTime.toNat < 16777216) (hth : threshold.toNat = totalTime.toNat / 2)
  (hK : a.targetSteps.toNat ≤ totalTime.toNat)
include h0 hT hlt hth hK

/-- The closed form of `n` firings from a load. -/
theorem stepAxis_iterate (n : Nat) : (stepAxis threshold totalTime)^[n] a =
    a.advance (accumAfter a.targetSteps.toNat totalTime.toNat n) (stepsAfter a.targetSteps.toNat totalTime.toNat n) := by
  induction n with
  | zero => simp [accumAfter, stepsAfter_zero, Axis.advance_zero h0]
  | succ n ih =>
    rw [Function.iterate_succ_apply', ih, stepAxis_advance totalTime (fitsS32_accumAfter _ n hT hlt), hth]
    simp only [half_lt_accumAfter_add_iff, accumAfter_succ hT hK, stepsAfter_succ hT hK]
    split
    · rfl
    · rw [Int.sub_zero]

theorem crosses_iterate_iff (n : Nat) : crosses threshold ((stepAxis threshold totalTime)^[n] a) = true ↔
    stepsAfter a.targetSteps.toNat totalTime.toNat n * totalTime.toNat + totalTime.toNat / 2 <
      (n + 1) * a.targetSteps.toNat := by
  rw [stepAxis_iterate h0 hT hlt hth hK, crosses_iff, accumSum_advance (fitsS32_accumAfter _ n hT hlt), hth,
    half_lt_accumAfter_add_iff]

end

/-- R106: the firing of step `j + 1` is the one whose sum is the first beyond `j * T + T / 2`. -/
theorem firingOfStep_eq_iff {K T j n : Nat} (hK : 1 ≤ K) :
    firingOfStep K T (j + 1) = n + 1 ↔ n * K ≤ j * T + T / 2 ∧ j * T + T / 2 < (n + 1) * K := by
  rw [firingOfStep, Nat.add_left_inj, Nat.div_eq_iff hK, Nat.add_sub_cancel, Nat.add_mul]
  omega

/-! ### Outside the contract (R108) -/

/-- The accumulator of `n` firings that each add the excess `D` of `K` over `T` fits while the last sum does. -/
theorem fitsS32_of_excess_le {n D T : Nat} (h : n * D + T ≤ 2147483647) : fitsS32 (n * D : Nat) = true := by
  rw [fitsS32_iff]
  omega

section
variable {threshold totalTime : Word} {a : Axis} {n : Nat} (h0 : a.accum = 0)
  (hth : threshold.toNat = totalTime.toNat / 2) (hK : totalTime.toNat < a.targetSteps.toNat)
  (hn : n * (a.targetSteps.toNat - totalTime.toNat) + totalTime.toNat ≤ 2147483647)

include h0 hth hK hn

theorem stepAxis_iterate_of_excess : (stepAxis threshold totalTime)^[n] a =
    a.advance (n * (a.targetSteps.toNat - totalTime.toNat) : Nat) n := by
  induction n with
  | zero => simp [Axis.advance_zero h0]
  | succ n ih =>
    rw [Nat.add_mul] at hn ⊢
    have hn' : n * (a.targetSteps.toNat - totalTime.toNat) + totalTime.toNat ≤ 2147483647 := by omega
    rw [Function.iterate_succ_apply', ih hn', stepAxis_advance totalTime (fitsS32_of_excess_le hn'),
      if_pos (by omega)]
    congr 1
    omega

end

/-! ### The obligations -/

/-- Settles O20: the closed form's fields, by induction on the firings; the last count is `K`. -/
theorem stepCountClosedForm : Obligations.StepCountClosedForm := by
  intro threshold totalTime a n h0 hT hlt hth hK _
  refine ⟨_, stepAxis_iterate h0 hT hlt hth hK n, ?_, rfl, rfl, rfl, rfl, stepsAfter_self _ hT⟩
  exact toInt_ofInt_of_fits (fitsS32_accumAfter _ n hT hlt)

/-- Settles O21: a firing steps exactly when its sum passes the multiple of `T` that the steps so far leave it, and only
the firing of the next step does. -/
theorem stepFiringsAreEvenlySpaced : Obligations.StepFiringsAreEvenlySpaced := by
  intro threshold totalTime a m h0 hT hlt hth hK hm hmT
  obtain ⟨n, rfl⟩ := Nat.exists_eq_add_of_le' hm
  rw [Nat.add_sub_cancel, crosses_iterate_iff h0 hT hlt hth hK]
  generalize hs : stepsAfter a.targetSteps.toNat totalTime.toNat n = s
  constructor
  · intro hcross
    have hsK : s < a.targetSteps.toNat := by
      have : (n + 1) * a.targetSteps.toNat ≤ totalTime.toNat * a.targetSteps.toNat := Nat.mul_le_mul_right _ hmT
      rw [Nat.mul_comm totalTime.toNat] at this
      exact Nat.lt_of_mul_lt_mul_right (a := totalTime.toNat) (by omega)
    exact ⟨s + 1, by omega, hsK,
      ((firingOfStep_eq_iff (by omega)).mpr ⟨((stepsAfter_eq_iff hT).mp hs).1, hcross⟩).symm⟩
  · rintro ⟨j, hj, hjK, hfire⟩
    obtain ⟨j, rfl⟩ := Nat.exists_eq_add_of_le' hj
    obtain ⟨hle, hcross⟩ := (firingOfStep_eq_iff (by omega)).mp hfire.symm
    rw [Nat.add_mul] at hcross
    obtain rfl : s = j := hs.symm.trans ((stepsAfter_eq_iff hT).mpr ⟨hle, by omega⟩)
    rw [Nat.add_mul]
    exact hcross

/-- Settles O22: every sum is beyond the threshold, so every firing adds `K - T` and steps. -/
theorem everyFiringStepsOutsideTheContract : Obligations.EveryFiringStepsOutsideTheContract := by
  intro threshold totalTime a n h0 hth hK hn
  constructor
  · rw [stepAxis_iterate_of_excess h0 hth hK hn, Axis.advance, BitVec.ofInt_natCast]
  · intro m hm
    have hle : (m + 1) * (a.targetSteps.toNat - totalTime.toNat) ≤ n * (a.targetSteps.toNat - totalTime.toNat) :=
      Nat.mul_le_mul_right _ hm
    rw [Nat.add_mul] at hle
    have hm' : m * (a.targetSteps.toNat - totalTime.toNat) + totalTime.toNat ≤ 2147483647 := by omega
    rw [stepAxis_iterate_of_excess h0 hth hK hm', accumOverflows_eq_false_iff,
      accumSum_advance (fitsS32_of_excess_le hm')]
    omega

end Sys2Proof.Machine
end

section
/-! PROOFS. TICK: the countdown and one stepping firing, what a TICK makes of each axis and of the outputs, and the only
way it stops (43_step_generator.md R100 to R103, R105, R108 to R110, 70_reset_and_hazards.md R177). -/

namespace Sys2Proof.Machine

/-! ### The outcome of part 1 (R100, R108) -/

/-- Part 1 completes, or an accumulator of the running segment overflows. -/
theorem stepPart_cases (s : State) :
    (∃ t, stepPart s = .next t) ∨
      (s.timeRemaining ≠ 0 ∧ (∃ a ∈ s.axes, accumOverflows s.bresenhamThreshold s.totalTime a = true) ∧
        stepPart s = .fault .accumulatorOverflow) := by
  unfold stepPart
  split
  · exact .inl ⟨s, rfl⟩
  · next h0 =>
    split
    · next ho => exact .inr ⟨h0, List.any_eq_true.mp ho, rfl⟩
    · exact .inl ⟨_, rfl⟩

theorem tick_of_stepPart_fault {s : State} {r : Fault} (h : stepPart s = .fault r) : tick s = .fault r := by
  rw [tick, h]

/-- When it is not the segment's last, a firing is all of TICK. -/
theorem tick_of_running {s t : State} (hs : stepPart s = .next t) (h : 1 < s.timeRemaining.toNat) :
    tick s = .next t := by
  have htime := stepPart_timeRemaining hs
  rw [tick_of_stepPart hs, loadPart_running (by bv_omega)]

/-! ### TICKs in a row (R101) -/

theorem ticks_succ_next {n : Nat} {s t : State} (h : ticks (n + 1) s = .next t) :
    ∃ u, tick s = .next u ∧ ticks n u = .next t := by
  rw [ticks] at h
  split at h
  · next u hu => exact ⟨u, hu, h⟩
  · cases h
  · cases h

/-- TICKs that do not reach the segment's last firing count down once each. -/
theorem ticks_timeRemaining {n : Nat} {s t : State} (hn : n < s.timeRemaining.toNat) (h : ticks n s = .next t) :
    t.timeRemaining.toNat = s.timeRemaining.toNat - n := by
  induction n generalizing s with
  | zero => cases h; rfl
  | succ n ih =>
    obtain ⟨u, htick, hrest⟩ := ticks_succ_next h
    obtain ⟨v, hstep, -⟩ := tick_next htick
    obtain ⟨hu, -⟩ := (loaderStateMachine s v u hstep htick).1 (by omega)
    rw [ih (by omega) hrest]
    omega

/-! ### The pulse (R103) -/

theorem pulseOutputs_eq (mask : List Bool) : pulseOutputs mask = if true ∈ mask then [.pulse mask] else [] := by
  simp [pulseOutputs]

theorem mem_of_getD_true {mask : List Bool} {i : Nat} (h : mask.getD i false = true) : true ∈ mask := by
  rw [List.getD_eq_getElem?_getD, Option.getD_eq_iff] at h
  exact List.mem_of_getElem? (h.resolve_right (by simp))

theorem countP_pulseOutputs (mask : List Bool) (i : Nat) :
    (pulseOutputs mask).countP (Output.pulses i) = if mask.getD i false then 1 else 0 := by
  rw [pulseOutputs_eq]
  split
  · exact List.countP_singleton
  · next hnone =>
    rw [if_neg fun h => hnone (mem_of_getD_true h)]
    rfl

theorem stepFiring_out (s : State) :
    (stepFiring s).out = s.out ++ pulseOutputs (s.axes.map (crosses s.bresenhamThreshold)) := by rw [stepFiring_eq]

theorem stepFiring_axes_getElem? (s : State) (i : Nat) :
    (stepFiring s).axes[i]? = (s.axes[i]?).map (stepAxis s.bresenhamThreshold s.totalTime) := by
  rw [stepFiring_axes, List.getElem?_map]

/-- A firing pulses an axis once if its sum crosses. -/
theorem stepFiring_pulseCount {s : State} {i : Nat} {a : Axis} (h : s.axes[i]? = some a) :
    (stepFiring s).pulseCount i = s.pulseCount i + if crosses s.bresenhamThreshold a then 1 else 0 := by
  rw [State.pulseCount, stepFiring_out, List.countP_append, countP_pulseOutputs, List.getD_eq_getElem?_getD,
    List.getElem?_map, h]
  rfl

/-- The outputs part 1 adds. -/
theorem stepPart_out {s t : State} (h : stepPart s = .next t) : t.out = s.out ++
    if s.timeRemaining ≠ 0 ∧ true ∈ s.axes.map (crosses s.bresenhamThreshold) then
      [.pulse (s.axes.map (crosses s.bresenhamThreshold))] else [] := by
  rcases stepPart_next h with ⟨h0, rfl⟩ | ⟨h0, _, rfl⟩
  · simp [h0]
  · simp only [stepFiring_out, pulseOutputs_eq, h0, ne_eq, not_false_eq_true, true_and]

/-- A firing turns no axis around. -/
theorem stepPart_dirLevels {s t : State} (h : stepPart s = .next t) : t.dirLevels = s.dirLevels := by
  rcases stepPart_next h with ⟨_, rfl⟩ | ⟨_, _, rfl⟩
  · rfl
  · refine List.ext_getElem? fun i => ?_
    rw [dirLevels_getElem?, dirLevels_getElem?, stepFiring_axes_getElem?, Option.map_map, stepFiring_eq]
    exact congrArg (Option.map · _) (funext fun a => by simp)

/-! ### Part 2's outputs (R90, R95) -/

/-- Part 2 loads the head and drives `dir` and `enable_n`, or leaves the outputs, the levels and the index alone. -/
theorem loadPart_out_cases (s : State) :
    ((loadPart s).out = s.out ∧ (loadPart s).readPosition = s.readPosition ∧ (loadPart s).dirLevels = s.dirLevels) ∨
      ((loadPart s).out = s.out ++ [.dir (loadPart s).dirLevels, .enableN false] ∧
        (loadPart s).readPosition = s.headIndex) := by
  rcases loadPart_cases s with heq | ⟨_, _, _, heq⟩ | ⟨_, _, heq⟩ <;> rw [heq]
  · exact .inl ⟨rfl, rfl, rfl⟩
  · exact .inl ⟨rfl, rfl, rfl⟩
  · exact .inr ⟨loadSegment_out _, loadSegment_readPosition _⟩

theorem loadPart_pulseCount (s : State) (i : Nat) : (loadPart s).pulseCount i = s.pulseCount i := by
  rcases loadPart_out_cases s with ⟨hout, _⟩ | ⟨hout, _⟩ <;> simp [State.pulseCount, hout, Output.pulses]

/-! ### One axis over a TICK (R110) -/

/-- What part 1 makes of an axis. -/
def State.fireAxis (s : State) (a : Axis) : Axis :=
  if s.timeRemaining = 0 then a else stepAxis s.bresenhamThreshold s.totalTime a

/-- What part 2 makes of axis `i`. -/
def State.reloadAxis (s : State) (i : Nat) (a : Axis) : Axis :=
  if s.timeRemaining = 0 ∧ s.headReady = true then loadAxis (s.slotAt s.headIndex) i a else a

theorem stepPart_axes_getElem? {s t : State} (h : stepPart s = .next t) (i : Nat) :
    t.axes[i]? = (s.axes[i]?).map s.fireAxis := by
  rcases stepPart_next h with ⟨h0, rfl⟩ | ⟨h0, _, rfl⟩
  · have hid : t.fireAxis = id := funext fun _ => if_pos h0
    rw [hid, Option.map_id_apply]
  · have hstep : s.fireAxis = stepAxis s.bresenhamThreshold s.totalTime := funext fun _ => if_neg h0
    rw [hstep, stepFiring_axes_getElem?]

theorem loadPart_axes_getElem? (s : State) (i : Nat) :
    (loadPart s).axes[i]? = (s.axes[i]?).map (s.reloadAxis i) := by
  by_cases h : s.timeRemaining = 0 ∧ s.headReady = true
  · have hload : s.reloadAxis i = loadAxis (s.slotAt s.headIndex) i := funext fun _ => if_pos h
    rw [loadPart_ok h.1 h.2, hload, loadSegment_axes_getElem?]
    rfl
  · obtain ⟨b, heq⟩ := loadPart_of_not_ok (fun hok => h (hok.imp_right tryLoadNext_eq_ok_iff.mp))
    have hid : s.reloadAxis i = id := funext fun _ => if_neg h
    rw [heq, hid, Option.map_id_apply]

theorem loadPart_axes_length (s : State) : (loadPart s).axes.length = s.axes.length := by
  rcases loadPart_cases s with heq | ⟨_, _, _, heq⟩ | ⟨_, _, heq⟩ <;> rw [heq]
  · rfl
  · exact loadSegment_axes_length _

/-- TICK on one axis: part 1, then part 2 on what part 1 left. -/
theorem tick_axes_getElem? {s t : State} (h : stepPart s = .next t) (i : Nat) :
    (loadPart t).axes[i]? = (s.axes[i]?).map (t.reloadAxis i ∘ s.fireAxis) := by
  rw [loadPart_axes_getElem?, stepPart_axes_getElem? h, Option.map_map]

@[simp] theorem reloadAxis_position (s : State) (i : Nat) (a : Axis) : (s.reloadAxis i a).position = a.position := by
  unfold State.reloadAxis
  split <;> rfl

/-! ### The obligations -/

/-- Settles O16: each TICK before the last firing counts down once, and the last firing leaves the generator idle. -/
theorem timeCountdown : Obligations.TimeCountdown := by
  intro s t n hn hrun
  have htime := ticks_timeRemaining hn hrun
  refine ⟨htime, fun hlast u hu => ?_⟩
  have h0 : u.timeRemaining = 0 := by
    have := stepPart_timeRemaining hu
    bv_omega
  exact ⟨h0, stepPart_idle h0⟩

/-- Settles O17: without an overflow part 1 is the stepping firing; each axis by its fields' lemmas. -/
theorem steppingFiringEffect : Obligations.SteppingFiringEffect := by
  intro s hrun hfits
  have hno : ∀ a ∈ s.axes, accumOverflows s.bresenhamThreshold s.totalTime a = false := fun a ha =>
    accumOverflows_eq_false_iff.mpr (hfits a ha)
  have hstep : stepPart s = .next (stepFiring s) := stepPart_running (by bv_omega) hno
  refine ⟨stepFiring s, s.axes.map (crosses s.bresenhamThreshold), hstep, tick_of_running hstep,
    stepPart_timeRemaining hstep, ?_, List.length_map _, ?_, ?_⟩
  · rw [stepFiring_axes, List.length_map]
  · intro i a b m ha hb hm
    rw [stepFiring_axes_getElem?, ha] at hb
    rw [List.getElem?_map, ha] at hm
    cases hb
    cases hm
    refine ⟨crosses_iff, ?_, stepAxis_stepsRemaining .., ?_, stepAxis_targetSteps .., stepAxis_direction ..⟩
    · rw [stepAxis_accum (hno a (List.mem_of_getElem? ha)), accumNext, accumSum]
      split <;> simp
    · rw [stepAxis_position, BitVec.toInt_add]
      split
      · rw [Direction.delta_toInt]
      · rfl
  · rw [← pulseOutputs_eq, stepFiring_timeRemaining, stepFiring_axes]
    exact stepFiring_eq s

/-- Settles O18: an idle part 1 is the identity, and part 2 without a load writes `waitingForSync` alone. -/
theorem idleTickChangesNothing : Obligations.IdleTickChangesNothing := by
  intro s h0
  refine ⟨stepPart_idle h0, tick_empty h0, fun hno => ?_⟩
  obtain ⟨b, heq⟩ := loadPart_of_not_ok (s := s) fun h => hno h.2
  exact ⟨b, by rw [tick_of_stepPart (stepPart_idle h0), heq]⟩

/-- Settles O19: part 1 completes or overflows, and part 2 completes always. -/
theorem tickStopsOnlyOnOverflow : Obligations.TickStopsOnlyOnOverflow := by
  intro s
  have hiff (a : Axis) := accumOverflows_iff (threshold := s.bresenhamThreshold) (totalTime := s.totalTime) (a := a)
  rcases stepPart_cases s with ⟨t, hstep⟩ | ⟨h0, ⟨a, ha, hover⟩, hstep⟩
  · have htick := tick_of_stepPart hstep
    refine ⟨iff_of_false (by simp [htick]) ?_, fun _ => ⟨_, htick⟩⟩
    rintro ⟨h0, a, ha, hover⟩
    rcases stepPart_next hstep with ⟨hidle, _⟩ | ⟨_, hno, _⟩
    · exact h0 hidle
    · exact Bool.false_ne_true ((hno a ha).symm.trans ((hiff a).mpr hover))
  · have htick := tick_of_stepPart_fault hstep
    exact ⟨iff_of_true htick ⟨h0, a, ha, (hiff a).mp hover⟩, fun hno => absurd htick hno⟩

/-- Settles O25: what each part makes of an axis reads the axis and registers that both states share. -/
theorem axesAreIndependent : Obligations.AxesAreIndependent := by
  intro s s' u u' i a htick htick' hsame ha ha'
  obtain ⟨t, hstep, rfl⟩ := tick_next htick
  obtain ⟨t', hstep', rfl⟩ := tick_next htick'
  have hfire : s'.fireAxis = s.fireAxis := by rw [hsame]; rfl
  have htime : t'.timeRemaining = t.timeRemaining := by
    have h := stepPart_timeRemaining hstep
    have h' := stepPart_timeRemaining hstep'
    rw [hsame] at h'
    exact BitVec.eq_of_toNat_eq (h'.trans h.symm)
  have hreload : t'.reloadAxis = t.reloadAxis := by
    rw [stepPart_frame hstep, stepPart_frame hstep', htime, hsame]
    rfl
  rw [tick_axes_getElem? hstep, tick_axes_getElem? hstep', ha, ha', hfire, hreload]

/-- Settles O26: part 2 neither pulses nor moves the ledger, and part 1 does both or neither. -/
theorem ledgerMovesOncePerPulse : Obligations.LedgerMovesOncePerPulse := by
  intro s u i a b htick ha hb
  obtain ⟨t, hstep, rfl⟩ := tick_next htick
  rw [tick_axes_getElem? hstep, ha] at hb
  cases hb
  rw [loadPart_pulseCount, Function.comp_apply, reloadAxis_position, State.fireAxis]
  rcases stepPart_next hstep with ⟨h0, rfl⟩ | ⟨h0, _, rfl⟩
  · exact .inl ⟨rfl, by rw [if_pos h0]⟩
  · rw [if_neg h0, stepFiring_pulseCount ha, stepAxis_position]
    split
    · exact .inr ⟨rfl, rfl, h0⟩
    · exact .inl ⟨rfl, BitVec.add_zero _⟩

/-- Settles O29: part 1 adds the pulse, and part 2 the new levels if it loads. -/
theorem pulseComesBeforeDir : Obligations.PulseComesBeforeDir := by
  intro s u htick
  obtain ⟨t, hstep, rfl⟩ := tick_next htick
  have hframe := stepPart_frame hstep
  have hread : t.readPosition = s.readPosition := by rw [hframe]
  have hhead : t.headIndex = s.headIndex := by rw [hframe]; rfl
  rcases loadPart_out_cases t with ⟨hout, hpos, hdir⟩ | ⟨hout, hpos⟩
  · refine ⟨_, [], ?_, rfl, .inl ⟨rfl, hpos.trans hread, hdir.trans (stepPart_dirLevels hstep)⟩⟩
    rw [hout, stepPart_out hstep, List.append_nil]
  · refine ⟨_, _, ?_, rfl, .inr ⟨rfl, hpos.trans hhead⟩⟩
    rw [hout, stepPart_out hstep]

end Sys2Proof.Machine
end

section
/-! PROOFS. The host contract `K ≤ T` (43_step_generator.md R106, R107, 70_reset_and_hazards.md R172): a firing keeps it
and overflows nothing, a load starts inside it, and inside it a segment moves every axis exactly. -/

namespace Sys2Proof.Machine

/-! ### One axis inside the contract -/

section
variable {threshold totalTime : Word} {a : Axis} {left : Nat} (hth : threshold.toNat = totalTime.toNat / 2)
include hth

/-- An axis that steps still had a step to make. -/
theorem Axis.InContract.stepsRemaining_pos (h : a.InContract totalTime.toNat (left + 1))
    (hcross : crosses threshold a = true) : 1 ≤ a.stepsRemaining.toNat := by
  obtain ⟨_, _, haccum, _, _⟩ := h
  rw [crosses_iff, accumSum, haccum, hth] at hcross
  by_contra hnone
  have hrem : a.stepsRemaining.toNat = 0 := by omega
  have hpos : 0 ≤ (left : Int) * a.targetSteps.toNat := by positivity
  rw [hrem] at hcross
  push_cast at hcross
  linarith [Int.ediv_nonneg (Int.natCast_nonneg totalTime.toNat) (by decide : (0 : Int) ≤ 2)]

/-- The countdown of the steps never falls below 0. -/
theorem Axis.InContract.stepAxis_stepsRemaining_toNat (h : a.InContract totalTime.toNat (left + 1)) :
    ((stepAxis threshold totalTime a).stepsRemaining.toNat : Int) =
      a.stepsRemaining.toNat - if crosses threshold a then 1 else 0 := by
  rw [stepAxis_stepsRemaining]
  split
  · next hcross =>
    have := h.stepsRemaining_pos hth hcross
    bv_omega
  · simp

/-- R107: the sum stays below `T / 2 + T`, and the difference above `T / 2 - T`. -/
theorem Axis.InContract.not_overflows (hlt : totalTime.toNat < 16777216) (hT : 1 ≤ totalTime.toNat)
    (h : a.InContract totalTime.toNat left) : accumOverflows threshold totalTime a = false := by
  obtain ⟨hK, _, _, hlow, hhigh⟩ := h
  rw [accumOverflows_eq_false_iff, accumSum, hth]
  have := hlow hT
  omega

/-- R107: a firing keeps one axis inside the contract. -/
theorem Axis.InContract.step (hlt : totalTime.toNat < 16777216) (hT : 1 ≤ totalTime.toNat)
    (h : a.InContract totalTime.toNat (left + 1)) :
    (stepAxis threshold totalTime a).InContract totalTime.toNat left := by
  have hrem' := h.stepAxis_stepsRemaining_toNat hth
  have hnext := stepAxis_accum (h.not_overflows hth hlt hT)
  have hcross : crosses threshold a = true ↔
      ((totalTime.toNat / 2 : Nat) : Int) < a.accum.toInt + a.targetSteps.toNat := by rw [crosses_iff, hth, accumSum]
  obtain ⟨hK, hrem, haccum, hlow, hhigh⟩ := h
  have hlow := hlow hT
  rw [accumNext, accumSum] at hnext
  simp only [hcross] at hrem' hnext
  rw [Axis.InContract, stepAxis_targetSteps]
  refine ⟨hK, ?_, ?_, fun _ => ?_, ?_⟩
  · split at hrem' <;> omega
  · rw [hnext, hrem', haccum]
    split <;> push_cast <;> ring
  · split at hnext <;> omega
  · split at hnext <;> omega

end

/-- With no firing to come no step is owed: the accumulator would hold all of `T` for it. -/
theorem Axis.InContract.stepsRemaining_eq_zero {a : Axis} {T : Nat} (h : a.InContract T 0) : a.stepsRemaining = 0 := by
  obtain ⟨hK, hrem, haccum, _, hhigh⟩ := h
  have howed : a.accum.toInt = (a.stepsRemaining.toNat * T : Nat) := by
    rw [haccum]
    push_cast
    ring
  by_contra hne
  have hT : 1 * T ≤ a.stepsRemaining.toNat * T := Nat.mul_le_mul_right T (by bv_omega)
  have : a.stepsRemaining.toNat ≠ 0 := by bv_omega
  omega

/-- R172: an axis right after a load is inside the contract if its delta is. -/
theorem loadAxis_inContract {seg : Slot} {i : Nat} {a : Axis}
    (h : (magnitudeOf (axisDelta seg i a.position)).toNat ≤ seg.segmentTime.toNat) :
    (loadAxis seg i a).InContract seg.segmentTime.toNat seg.segmentTime.toNat := by
  have h0 : (0 : Word).toInt = 0 := rfl
  refine ⟨h, Nat.le_refl _, ?_, fun hT => ?_, ?_⟩ <;> rw [loadAxis_accum, h0]
  · simp [loadAxis]
  · omega
  · omega

/-! ### Every axis: a firing and a load -/

theorem stepPart_inContract {s : State} (h : s.Inv) (hc : s.InContract) (hrun : s.timeRemaining ≠ 0) :
    stepPart s = .next (stepFiring s) ∧ (stepFiring s).InContract := by
  have hle := h.time_le
  have hT : 1 ≤ s.totalTime.toNat := by bv_omega
  refine ⟨stepPart_running hrun fun a ha => (hc a ha).not_overflows h.threshold_half h.total_lt hT, ?_⟩
  have hleft : s.timeRemaining.toNat = (s.timeRemaining - 1).toNat + 1 := by bv_omega
  rw [stepFiring_eq]
  intro b hb
  obtain ⟨a, ha, rfl⟩ := List.mem_map.mp hb
  exact Axis.InContract.step h.threshold_half h.total_lt hT (hleft ▸ hc a ha)

theorem loadSegment_inContract {s : State} (h : s.HeadInContract) : (loadSegment (afterLoad s)).InContract := by
  intro b hb
  obtain ⟨i, hi⟩ := List.getElem?_of_mem hb
  rw [loadSegment_axes_getElem?, Option.map_eq_some_iff] at hi
  obtain ⟨a, ha, rfl⟩ := hi
  exact loadAxis_inContract (h i a ha)

theorem loadPart_inContract {s : State} (hc : s.InContract)
    (hhead : s.timeRemaining = 0 → (tryLoadNext s).1 = .ok → s.HeadInContract) : (loadPart s).InContract := by
  rcases loadPart_cases s with heq | ⟨_, _, _, heq⟩ | ⟨h0, hready, heq⟩ <;> rw [heq]
  · exact hc
  · exact hc
  · exact loadSegment_inContract (hhead h0 (tryLoadNext_eq_ok_iff.mpr hready))

/-! ### A whole segment -/

/-- Where an axis stands when it has made the steps it still owes. -/
def Axis.destination (a : Axis) : Word := a.position + a.stepsRemaining * a.direction.delta

/-- A step taken is a step no longer owed. -/
theorem stepAxis_destination (threshold totalTime : Word) (a : Axis) :
    (stepAxis threshold totalTime a).destination = a.destination := by
  simp only [Axis.destination, stepAxis_position, stepAxis_stepsRemaining, stepAxis_direction]
  split
  · rw [sub_mul, one_mul, add_add_sub_cancel]
  · rw [sub_zero, add_zero]

theorem magnitudeOf_mul_delta (d : Word) : magnitudeOf d * (directionOf d).delta = d := by
  unfold magnitudeOf directionOf
  split
  · exact (neg_mul_neg d 1).trans (mul_one d)
  · exact mul_one d

/-- R91: the destination of a load is the target, from the position or from 0. -/
theorem loadAxis_destination (seg : Slot) (i : Nat) (a : Axis) : (loadAxis seg i a).destination =
    if seg.absolute then seg.target.getD i 0 else a.position + seg.target.getD i 0 := by
  have hdest : (loadAxis seg i a).destination = a.position + axisDelta seg i a.position :=
    congrArg (a.position + ·) (magnitudeOf_mul_delta _)
  rw [hdest, axisDelta]
  split
  · exact add_sub_cancel ..
  · rfl

/-- From `s` to `t` every axis pulses as often as it owes steps in `s`, and arrives. -/
def Arrives (s t : State) : Prop :=
  t.axes.length = s.axes.length ∧ ∀ (i : Nat) (a b : Axis), s.axes[i]? = some a → t.axes[i]? = some b →
    t.pulseCount i = s.pulseCount i + a.stepsRemaining.toNat ∧ b.position = a.destination

/-- With no firing to come nothing is owed. -/
theorem arrives_self {s : State} (hc : s.InContract) (h0 : s.timeRemaining.toNat = 0) : Arrives s s := by
  refine ⟨rfl, fun i a b ha hb => ?_⟩
  obtain rfl : a = b := Option.some.inj (ha.symm.trans hb)
  have hcon := hc a (List.mem_of_getElem? ha)
  rw [h0] at hcon
  rw [Axis.destination, hcon.stepsRemaining_eq_zero]
  exact ⟨rfl, by rw [zero_mul, add_zero]⟩

/-- Part 2 neither pulses nor moves the ledger. -/
theorem Arrives.loadPart {s t : State} (h : Arrives s t) : Arrives s (loadPart t) := by
  obtain ⟨hlen, haxes⟩ := h
  refine ⟨(loadPart_axes_length t).trans hlen, fun i a b ha hb => ?_⟩
  rw [loadPart_axes_getElem?, Option.map_eq_some_iff] at hb
  obtain ⟨b, hb, rfl⟩ := hb
  rw [loadPart_pulseCount, reloadAxis_position]
  exact haxes i a b ha hb

/-- A firing inside the contract pays off what it pulses. -/
theorem Arrives.of_stepFiring {s t : State} (h : s.Inv) (hc : s.InContract) (hrun : s.timeRemaining ≠ 0)
    (hrest : Arrives (stepFiring s) t) : Arrives s t := by
  obtain ⟨hlen, haxes⟩ := hrest
  have hfired : (stepFiring s).axes.length = s.axes.length := by rw [stepFiring_axes, List.length_map]
  refine ⟨hlen.trans hfired, fun i a b ha hb => ?_⟩
  obtain ⟨hpulse, hpos⟩ := haxes i _ b (by rw [stepFiring_axes_getElem?, ha]; rfl) hb
  refine ⟨?_, hpos.trans (stepAxis_destination ..)⟩
  have hleft : s.timeRemaining.toNat = (s.timeRemaining - 1).toNat + 1 := by bv_omega
  have hcon := hc a (List.mem_of_getElem? ha)
  rw [hleft] at hcon
  have hrem := hcon.stepAxis_stepsRemaining_toNat h.threshold_half
  rw [hpulse, stepFiring_pulseCount ha]
  zify
  rw [hrem]
  ring

/-- The firings of a segment inside the contract: the TICKs complete, and every axis arrives. -/
theorem ticks_arrive {n : Nat} {s : State} (h : s.Inv) (hc : s.InContract) (hn : s.timeRemaining.toNat = n) :
    ∃ t, ticks n s = .next t ∧ Arrives s t := by
  induction n generalizing s with
  | zero => exact ⟨s, rfl, arrives_self hc hn⟩
  | succ n ih =>
    have hrun : s.timeRemaining ≠ 0 := by bv_omega
    obtain ⟨hstep, hc'⟩ := stepPart_inContract h hc hrun
    have htime := stepPart_timeRemaining hstep
    cases n with
    | zero =>
      have harrives := (arrives_self hc' (by omega)).loadPart
      exact ⟨_, ticks_succ (tick_of_stepPart hstep) 0, harrives.of_stepFiring h hc hrun⟩
    | succ n =>
      obtain ⟨t, ht, harrives⟩ := ih (stepPart_inv h hstep) hc' (by omega)
      exact ⟨t, (ticks_succ (tick_of_running hstep (by omega)) _).trans ht, harrives.of_stepFiring h hc hrun⟩

/-! ### The obligations -/

/-- Settles O23: axis by axis, a firing keeps R107's range and the count of steps. -/
theorem steppingKeepsTheContract : Obligations.SteppingKeepsTheContract := by
  intro s h hc hrun
  obtain ⟨hstep, hc'⟩ := stepPart_inContract h hc hrun
  have htime := stepPart_timeRemaining hstep
  exact ⟨_, hstep, hc', by bv_omega⟩

/-- Settles O24: O23 for part 1, and a load starts with the accumulators at 0 and all steps to come. -/
theorem tickStaysInTheContract : Obligations.TickStaysInTheContract := by
  intro s t h hc hstep hhead
  have hc' : t.InContract := by
    rcases stepPart_next hstep with ⟨_, rfl⟩ | ⟨hrun, _, rfl⟩
    · exact hc
    · exact (stepPart_inContract h hc hrun).2
  exact ⟨_, tick_of_stepPart hstep, loadPart_inContract hc' hhead⟩

/-- Settles O27: the first TICK loads the segment inside the contract, and its `T` firings make every step it owes. -/
theorem segmentMovesExactly : Obligations.SegmentMovesExactly := by
  intro s seg h h0 hne hseg hw hhead
  subst hseg
  have hready : s.headReady = true := State.headReady_iff.mpr ⟨hne, hw⟩
  have hload := tick_load h0 hready
  obtain ⟨t, hrun, hlen, haxes⟩ := ticks_arrive (tick_inv h hload) (loadSegment_inContract hhead) rfl
  refine ⟨t, by rw [Nat.add_comm, ticks_succ hload]; exact hrun, hlen.trans (loadSegment_axes_length _), ?_⟩
  intro i a b ha hb
  obtain ⟨hpulse, hpos⟩ := haxes i _ b (by rw [loadSegment_axes_getElem?]; exact congrArg _ ha) hb
  rw [loadSegment_pulseCount] at hpulse
  exact ⟨hpulse, hpos.trans (loadAxis_destination ..)⟩

end Sys2Proof.Machine
end

section
/-! PROOFS. What each command answers and writes (44_commands.md R120 to R129): the reply payloads, the segment that
STEP_REQUEST queues, the slot that SYNC releases, and how a step comes to run a command. -/

namespace Sys2Proof

/-! ### Reply payloads (30_encoding.md R70, R71) -/

theorem wrU24_eq_ofNat (v : Word) :
    wrU24 v = [BitVec.ofNat 8 v.toNat, BitVec.ofNat 8 (v.toNat / 256), BitVec.ofNat 8 (v.toNat / 65536)] := by
  simp [wrU24, BitVec.extractLsb', Nat.shiftRight_eq_div_pow]

/-- Of fields written one after the other, the read at `3i` sees the `i`-th only. -/
theorem rdU24_flatMap_wrS24 {α : Type} (f : α → Word) {xs : List α} {i : Nat} {x : α} (h : xs[i]? = some x) :
    rdU24 (xs.flatMap fun a => wrS24 (f a)) (3 * i) = rdU24 (wrS24 (f x)) 0 := by
  induction xs generalizing i with
  | nil => simp at h
  | cons y ys ih =>
    rw [List.flatMap_cons, wrS24]
    cases i with
    | zero =>
      obtain rfl : y = x := by simpa using h
      rw [Nat.mul_zero, rdU24_wrU24_append, wrS24, rdU24_wrU24]
    | succ i =>
      rw [Nat.mul_succ, Nat.add_comm]
      exact (rdU24_append_right (wrU24 (f y)) _ _).trans (ih (by simpa using h))

namespace Machine

theorem status_eq_append (code : Byte) (s : State) : s.status code =
    [code, s.segmentKey] ++ (wrU24 s.timeRemaining ++ [s.readPosition, s.writePosition]) := rfl

theorem rdU24_status (code : Byte) (s : State) :
    (rdU24 (s.status code) 2).toNat = s.timeRemaining.toNat % 16777216 := by
  have hread : rdU24 (s.status code) 2 = rdU24 (wrU24 s.timeRemaining ++ _) 0 :=
    rdU24_append_right [code, s.segmentKey] _ 0
  rw [hread, rdU24_wrU24_append, BitVec.toNat_setWidth]

theorem positionPayload_length (s : State) : s.positionPayload.length = 3 * s.axes.length := by
  simp [State.positionPayload, wrS24, Nat.mul_comm]

theorem rdU24_positionPayload {s : State} {i : Nat} {a : Axis} (h : s.axes[i]? = some a) :
    rdU24 s.positionPayload (3 * i) = rdU24 (wrS24 (a.position.sshiftRight s.cfg.sb)) 0 :=
  rdU24_flatMap_wrS24 (fun a : Axis => a.position.sshiftRight s.cfg.sb) h

/-- The arithmetic shift rounds towards minus infinity (D10). -/
theorem sshiftRight_toInt (v : Word) (k : Nat) : (v.sshiftRight k).toInt = v.toInt / 2 ^ k := by
  rw [BitVec.toInt_sshiftRight, Int.shiftRight_eq_div_pow]
  norm_cast

/-- Settles O35: each read of the reply sees one axis, and the codec (O6) gives the shifted position back. -/
theorem getPositionEffect : Obligations.GetPositionEffect := by
  intro s
  refine ⟨s.positionPayload, rfl, positionPayload_length s, fun i a ha => ?_⟩
  obtain ⟨-, hmod, hback, -⟩ := signedCodecRoundTrip.2.1 (a.position.sshiftRight s.cfg.sb)
  rw [rdS24, rdU24_positionPayload ha, ← rdS24]
  rw [sshiftRight_toInt] at hmod hback
  refine ⟨hmod, fun hlo hhi => ?_⟩
  rw [hback hlo hhi, sshiftRight_toInt]

/-- Settles O36: the reply is the status, whose bytes 2 to 4 are the 24-bit field. -/
theorem getStatusEffect : Obligations.GetStatusEffect :=
  fun s => ⟨s.status 1, rfl, rfl, rfl, rfl, rdU24_status 1 s, rfl, rfl⟩

/-! ### STEP_REQUEST (R122) -/

/-- For every `SB`, admissible or not, the scaled target is the product modulo `2^32` (R66). -/
theorem scaleTarget_eq_ofInt (sb : Nat) (t : U24) : scaleTarget sb t = BitVec.ofInt 32 (t.toInt * 2 ^ sb) := by
  apply BitVec.eq_of_toInt_eq
  rw [scaleTarget, BitVec.toInt_shiftLeft, Nat.shiftLeft_eq, Nat.cast_mul, ← Int.bmod_mul_bmod,
    ← BitVec.toInt_eq_toNat_bmod, sext24_toInt, BitVec.toInt_ofInt, Nat.cast_pow, Nat.cast_ofNat]

theorem segmentOf_eq (sb : Nat) (targets : List U24) (time : U24) (key : Byte) (abs wfs : Bool) :
    segmentOf sb targets time key abs wfs =
      { target := targets.map fun v => BitVec.ofInt 32 (v.toInt * 2 ^ sb)
        segmentTime := BitVec.ofNat 32 time.toNat
        segmentKey := key
        absolute := abs
        waitForSync := wfs } := by
  rw [segmentOf, funext (scaleTarget_eq_ofInt sb), BitVec.ofNat_toNat]

/-- A status reply appends its seven bytes to the outputs and changes nothing else (R70). -/
theorem sendReply_status_eq (port code : Byte) (s : State) : s.sendReply port (s.status code) =
    { s with out := s.out ++ [.reply port [code, s.segmentKey, BitVec.ofNat 8 s.timeRemaining.toNat,
      BitVec.ofNat 8 (s.timeRemaining.toNat / 256), BitVec.ofNat 8 (s.timeRemaining.toNat / 65536),
      s.readPosition, s.writePosition]] } := by
  rw [status_eq_append, wrU24_eq_ofNat]
  rfl

/-- Settles O33: by enqueue's two outcomes, each followed by the status reply as it left the state. -/
theorem stepRequestEffect : Obligations.StepRequestEffect := by
  intro targets time key abs wfs s hn
  rcases execStepRequest_cases hn time key abs wfs with ⟨hfull, heq⟩ | ⟨hroom, heq⟩ <;>
    rw [sendReply_status_eq] at heq
  · refine ⟨_, 0, heq, rfl, fun _ => ⟨rfl, rfl, rfl⟩, fun hroom => ?_⟩
    exact absurd (hfull.symm.trans hroom) (by decide)
  · refine ⟨_, 1, heq, rfl, fun hfull => ?_, fun _ => ⟨rfl, rfl, ?_, ?_⟩⟩
    · exact absurd (hfull.symm.trans hroom) (by decide)
    · exact (slotAt_writeSlot_same _ _ s).trans (segmentOf_eq ..)
    · exact fun p hp => slotAt_writeSlot_other hp _ s

/-! ### SYNC (R126, R129) -/

theorem execSync_of_hasSync {s : State} (h : s.cfg.hasSync = true) :
    execSync s = .next (releaseOldest (realignTimer s)) := if_pos h

theorem execSync_of_not_hasSync {s : State} (h : s.cfg.hasSync = false) : execSync s = .next s :=
  if_neg (by simp [h])

/-- At most one segment is the oldest that waits: of two, neither is queued before the other. -/
theorem State.OldestWaiting.unique {s : State} {p q : Byte} (h : s.Inv) (hp : s.OldestWaiting p)
    (hq : s.OldestWaiting q) : p = q := by
  obtain ⟨hqueuedp, hwaitsp, hminp⟩ := hp
  obtain ⟨hqueuedq, hwaitsq, hminq⟩ := hq
  have hle := le_of_not_gt fun hlt => absurd ((hminq p hqueuedp hlt).symm.trans hwaitsp) (by decide)
  have hge := le_of_not_gt fun hlt => absurd ((hminp q hqueuedq hlt).symm.trans hwaitsq) (by decide)
  exact distance_inj h.read_lt hqueuedp.1 hqueuedq.1 (Nat.le_antisymm hge hle)

namespace State.Inv

/-- The way from `readPosition` to `writePosition` leads over `syncSearchPosition` (10_state.md R29 item 8). -/
theorem occupancy_eq {s : State} (h : s.Inv) : s.occupancy =
    distance s.cfg.c s.readPosition s.syncSearchPosition +
      distance s.cfg.c s.syncSearchPosition s.writePosition := by
  have hle : distance s.cfg.c s.readPosition s.syncSearchPosition ≤ distance s.cfg.c s.readPosition s.writePosition :=
    h.sync_between
  have htrans := distance_trans h.read_lt h.sync_lt h.write_lt hle
  rw [State.occupancy]
  omega

/-- A queued slot that waits lies beyond `syncSearchPosition` (10_state.md R29 item 9). -/
theorem distance_waiting {s : State} (h : s.Inv) {q : Byte} (hq : s.Queued q) (hw : (s.slotAt q).waitForSync = true) :
    1 ≤ distance s.cfg.c s.syncSearchPosition q ∧ distance s.cfg.c s.readPosition q =
      distance s.cfg.c s.readPosition s.syncSearchPosition + distance s.cfg.c s.syncSearchPosition q := by
  obtain ⟨hlt, h1, hle⟩ := hq
  have hbeyond := lt_of_not_ge fun hsearched =>
    absurd ((h.searched_released q hlt h1 hsearched).symm.trans hw) (by decide)
  have htrans := distance_trans h.read_lt h.sync_lt hlt hbeyond.le
  omega

/-- The scan finds the oldest waiting segment: the slots it passes over, and those behind it, are released. -/
theorem oldestWaiting_of_scan {s : State} (h : s.Inv) {p : Byte}
    (hscan : scanForWaiting s (distance s.cfg.c s.syncSearchPosition s.writePosition) s.syncSearchPosition = some p) :
    s.OldestWaiting p := by
  have hc := distance_lt (Nat.zero_lt_of_lt h.two_le_c) s.syncSearchPosition s.writePosition
  obtain ⟨hp, h1, hle, hwaits, hpassed⟩ := scanForWaiting_some h.two_le_c h.c_le h.sync_lt hc hscan
  have hocc := h.occupancy_eq
  have hlt := h.occupancy_lt
  have hadd := distance_add h.read_lt h.sync_lt hp (by omega)
  refine ⟨⟨hp, by omega, by omega⟩, hwaits, fun q hq hqp => Bool.eq_false_iff.mpr fun hw => ?_⟩
  obtain ⟨h1q, haddq⟩ := h.distance_waiting hq hw
  exact absurd ((hpassed q hq.1 h1q (by omega)).symm.trans hw) (by decide)

/-- A scan that finds nothing leaves no waiting segment. -/
theorem no_oldestWaiting_of_scan {s : State} (h : s.Inv)
    (hscan : scanForWaiting s (distance s.cfg.c s.syncSearchPosition s.writePosition) s.syncSearchPosition = none)
    (p : Byte) : ¬ s.OldestWaiting p := by
  rintro ⟨hq, hw, -⟩
  have hc := distance_lt (Nat.zero_lt_of_lt h.two_le_c) s.syncSearchPosition s.writePosition
  obtain ⟨h1, hadd⟩ := h.distance_waiting hq hw
  have hocc := h.occupancy_eq
  have hle := hq.2.2
  have hrel := scanForWaiting_none h.two_le_c h.c_le h.sync_lt hc hscan p hq.1 h1 (by omega)
  exact absurd (hrel.symm.trans hw) (by decide)

/-- The scan's two outcomes by the queue (90_conflicts.md C8). -/
theorem releaseOldest_oldestWaiting_cases {s : State} (h : s.Inv) :
    (∃ p, s.OldestWaiting p ∧ Machine.releaseOldest s = (s.clearWaitForSync p).setSyncSearchPosition p) ∨
      ((∀ p, ¬ s.OldestWaiting p) ∧ Machine.releaseOldest s = s.setSyncSearchPosition s.writePosition) := by
  rcases Machine.releaseOldest_cases s with ⟨p, hscan, heq⟩ | ⟨hscan, heq⟩
  · exact .inl ⟨p, h.oldestWaiting_of_scan hscan, heq⟩
  · exact .inr ⟨h.no_oldestWaiting_of_scan hscan, heq⟩

end State.Inv

/-- Which segment is the oldest that waits does not depend on the timer. -/
theorem realignTimer_oldestWaiting (s : State) (p : Byte) :
    (realignTimer s).OldestWaiting p ↔ s.OldestWaiting p := by
  rw [realignTimer_eq]
  rfl

/-- Settles O37: by the scan's two outcomes, on the state whose timer has been restarted. -/
theorem syncReleasesTheOldestWaiting : Obligations.SyncReleasesTheOldestWaiting := by
  intro s h hsync
  refine ⟨_, execSync_of_hasSync hsync, ?_⟩
  rcases h.realignTimer.releaseOldest_oldestWaiting_cases with ⟨r, hr, heq⟩ | ⟨hnone, heq⟩ <;> rw [heq]
  · rw [realignTimer_oldestWaiting] at hr
    rw [realignTimer_eq]
    refine ⟨rfl, fun p hp => ?_, fun hnone => absurd hr (hnone r)⟩
    obtain rfl := hp.unique h hr
    exact ⟨rfl, slotAt_clearWaitForSync_same p _, fun q hq => slotAt_clearWaitForSync_other hq _⟩
  · simp only [realignTimer_oldestWaiting] at hnone
    rw [realignTimer_eq]
    exact ⟨rfl, fun p hp => absurd hp (hnone p), fun _ => ⟨rfl, rfl⟩⟩

/-- Settles O38: both branches of the handler test answer a next state. -/
theorem syncCompletesEverywhere : Obligations.SyncCompletesEverywhere :=
  fun s => ⟨execSync_completes s, execSync_of_not_hasSync⟩

/-! ### The drivers and the external ports (R121, R127) -/

theorem execEnableDrivers_eq (b : Byte) (s : State) : execEnableDrivers b s =
    .next { s with driversEnabled := b != 0, out := s.out ++ [.enableN (!(b != 0)), .reply 12 []] } := by
  simp [execEnableDrivers, State.setDriversEnabled, State.sendReply, State.emit]

/-- Settles O32: the byte's test against 0 gives the register and, negated, the level. -/
theorem enableDriversEffect : Obligations.EnableDriversEffect := by
  intro b s
  refine ⟨_, execEnableDrivers_eq b s, fun h0 => ?_, fun hne => ?_⟩
  · rw [bne_eq_false_iff_eq.mpr h0]; rfl
  · rw [bne_iff_ne.mpr hne]; rfl

/-- Settles O39: both meanings are the identity. -/
theorem externalPortsChangeNothing : Obligations.ExternalPortsChangeNothing := fun _ => ⟨rfl, rfl⟩

/-! ### How a step comes to run a command (R120, R128) -/

/-- Settles O40: the decoder knows no such port (O4), and what it does not know is ignored. -/
theorem unknownPortsAreIgnored : Obligations.UnknownPortsAreIgnored := by
  intro s port P rest hin hport
  rw [step_command hin]
  exact runCommand_unknownPort ((decodeRejectsExactly s.cfg.n port P).1.mpr hport)

/-- Settles O47: the step runs the presented command, and a command that decodes is executed. -/
theorem stepRunsTheDecodedCommand : Obligations.StepRunsTheDecodedCommand := by
  intro s port P rest i hin hdec
  rw [step_command hin]
  exact runCommand_ok hdec

theorem decode_of_decodeTableWord {nbits w : Nat} {i : Instr} (h : decodeTableWord nbits w = some i) :
    decode 1 (tablePort nbits w) (tablePayload 1 nbits w) = .ok i := by
  unfold decodeTableWord at h
  split at h
  · next hdec => cases h; exact hdec
  · cases h

/-- Settles O48: the word is presented before every other input, so O47 speaks of it. -/
theorem fetchWordIsRunNext : Obligations.FetchWordIsRunNext := by
  intro s nbits w i hn hword
  have hdec : decode s.cfg.n (tablePort nbits w) (tablePayload s.cfg.n nbits w) = .ok i := by
    rw [hn]
    exact decode_of_decodeTableWord hword
  exact stepRunsTheDecodedCommand (s.withFetchWord nbits w) _ _ s.inputs i rfl hdec

end Machine

end Sys2Proof
end

section
/-! PROOFS. Which agent writes what, and when the timer raises TICK (60_exceptions.md R142, R144, R146, R150, R151): one
frame lemma per operation that writes, then the clock's two steps, and runs of them by counting. -/

namespace Sys2Proof.Machine

/-! ### The registers a command may write (R146) -/

/-- SYNC's scan writes one slot at most, and its marker. -/
theorem releaseOldest_frame (s : State) : releaseOldest s =
    { s with
      slots := (releaseOldest s).slots
      syncSearchPosition := (releaseOldest s).syncSearchPosition } := by
  rcases releaseOldest_cases s with ⟨_, _, heq⟩ | ⟨_, heq⟩ <;> rw [heq] <;> rfl

/-- What SYNC writes on a node with the handler (R126, R151). -/
theorem execSync_frame {s t : State} (hsync : s.cfg.hasSync = true) (hs : execSync s = .next t) :
    t = { s with
      tcnt := if s.waitingForSync then 0 else s.tcnt
      slots := t.slots
      syncSearchPosition := t.syncSearchPosition } := by
  rw [execSync_of_hasSync hsync] at hs
  cases hs
  rw [releaseOldest_frame, realignTimer_eq]

/-- Settles O42: by command. SYNC writes the slots, its marker and the timer, STEP_REQUEST the slots and `writePosition`,
and the others at most the drivers and a reply. -/
theorem commandsKeepTheTickAgentsState : Obligations.CommandsKeepTheTickAgentsState := by
  intro i s t hs
  cases i with
  | sync =>
    cases hsync : s.cfg.hasSync with
    | true => rw [execSync_frame hsync hs]
    | false => cases hs.symm.trans (execSync_of_not_hasSync hsync); rfl
  | stepRequest targets time key abs wfs =>
    rcases execStepRequest_cases (execStepRequest_next hs) time key abs wfs with ⟨_, heq⟩ | ⟨_, heq⟩ <;>
      cases hs.symm.trans heq <;> rfl
  | enableDrivers | getPosition | getStatus | vrefExternal | pwmExternal => cases hs; rfl

/-! ### The registers TICK may write (R146) -/

/-- Part 2 writes neither a slot nor `writePosition` nor the timer. -/
theorem loadPart_frame (s : State) : loadPart s =
    { loadPart s with
      slots := s.slots, writePosition := s.writePosition, tcnt := s.tcnt, cfg := s.cfg, inputs := s.inputs,
      epoch := s.epoch } := by
  rcases loadPart_cases s with heq | ⟨_, _, _, heq⟩ | ⟨_, _, heq⟩ <;> rw [heq] <;> rfl

theorem tick_frame {s t : State} (hs : tick s = .next t) : t =
    { t with
      slots := s.slots, writePosition := s.writePosition, tcnt := s.tcnt, cfg := s.cfg, inputs := s.inputs,
      epoch := s.epoch } := by
  obtain ⟨u, hstep, rfl⟩ := tick_next hs
  rw [stepPart_frame hstep]
  exact loadPart_frame _

/-- Part 2 leaves both indices, or moves `readPosition` to the head and with it a marker that was level (R82). -/
theorem loadPart_indices (s : State) :
    ((loadPart s).readPosition = s.readPosition ∧ (loadPart s).syncSearchPosition = s.syncSearchPosition) ∨
      ((loadPart s).readPosition = s.headIndex ∧ (loadPart s).syncSearchPosition =
        if s.syncSearchPosition = s.readPosition then s.headIndex else s.syncSearchPosition) := by
  rcases loadPart_cases s with heq | ⟨_, _, _, heq⟩ | ⟨_, _, heq⟩ <;> rw [heq]
  · exact .inl ⟨rfl, rfl⟩
  · exact .inl ⟨rfl, rfl⟩
  · exact .inr ⟨rfl, rfl⟩

theorem tick_indices {s t : State} (hs : tick s = .next t) :
    (t.readPosition = s.readPosition ∧ t.syncSearchPosition = s.syncSearchPosition) ∨
      (t.readPosition = s.headIndex ∧ t.syncSearchPosition =
        if s.syncSearchPosition = s.readPosition then s.headIndex else s.syncSearchPosition) := by
  obtain ⟨u, hstep, rfl⟩ := tick_next hs
  rw [stepPart_frame hstep]
  exact loadPart_indices _

/-- Settles O43: the registers by TICK's frame, the two indices by whether part 2 loads. -/
theorem tickKeepsTheCommandAgentsState : Obligations.TickKeepsTheCommandAgentsState := by
  intro s t hs
  have hindices := tick_indices hs
  rw [tick_frame hs]
  refine ⟨rfl, rfl, rfl, rfl, rfl, rfl, ?_⟩
  rcases hindices with ⟨hread, hmarker⟩ | ⟨hread, hmarker⟩
  · exact ⟨.inl hread, .inl hmarker⟩
  · refine ⟨.inr hread, ?_⟩
    split at hmarker
    · next hlevel => exact .inr ⟨hlevel, hmarker.trans hread.symm⟩
    · exact .inl hmarker

/-! ### A cycle of the clock (R142, R150) -/

/-- A cycle that does not complete the period only counts. -/
theorem step_clk_counts {s : State} (hclk : s.nextEvent = .clk) (hshort : s.tcnt + 1 ≠ s.cfg.timebase) :
    step s = .next (s.takeEvent.setTcnt (s.tcnt + 1)) := by
  rw [step_clk hclk]
  exact clkCycle_counts hshort

/-- The cycle that completes the period restarts the counter and is one TICK. -/
theorem step_clk_fires {s : State} (hclk : s.nextEvent = .clk) (hperiod : s.tcnt + 1 = s.cfg.timebase) :
    step s = tick (s.takeEvent.setTcnt 0) := by
  rw [step_clk hclk]
  exact clkCycle_fires hperiod

/-! ### Steps in a row (R150; log 5) -/

theorem core_run_two {s t : State} (h : step s = .next t) : core.run 2 s = step t :=
  (core_run_of_step h 1).trans (core_run_one t)

/-- Nothing is presented and no output stands from the last operation: the clock runs on. -/
structure State.Quiet (s : State) : Prop where
  inputs_nil : s.inputs = []
  out_nil : s.out = []

namespace State.Quiet

theorem nextEvent {s : State} (h : s.Quiet) : s.nextEvent = .clk := by
  rw [State.nextEvent, h.inputs_nil]
  rfl

theorem takeEvent {s : State} (h : s.Quiet) : s.takeEvent = s := by
  obtain ⟨hin, hout⟩ := h
  cases s
  cases hin
  cases hout
  rfl

theorem setTcnt {s : State} (h : s.Quiet) (t : Nat) : (s.setTcnt t).Quiet := ⟨h.inputs_nil, h.out_nil⟩

theorem step_counts {s : State} (h : s.Quiet) (hshort : s.tcnt + 1 ≠ s.cfg.timebase) :
    step s = .next (s.setTcnt (s.tcnt + 1)) := by
  rw [step_clk_counts h.nextEvent hshort, h.takeEvent]

theorem step_fires {s : State} (h : s.Quiet) (hperiod : s.tcnt + 1 = s.cfg.timebase) :
    step s = tick (s.setTcnt 0) := by
  rw [step_clk_fires h.nextEvent hperiod, h.takeEvent]

/-- Short of the period every cycle counts one. -/
theorem run_counts {s : State} (h : s.Quiet) {k : Nat} (hk : s.tcnt + k < s.cfg.timebase) :
    core.run k s = .next (s.setTcnt (s.tcnt + k)) := by
  induction k generalizing s with
  | zero => rfl
  | succ k ih =>
    have hlt : s.tcnt + 1 + k < s.cfg.timebase := by omega
    calc core.run (k + 1) s
      _ = core.run k (s.setTcnt (s.tcnt + 1)) := core_run_of_step (h.step_counts (by omega)) k
      _ = .next (s.setTcnt (s.tcnt + 1 + k)) := ih (h.setTcnt _) hlt
      _ = .next (s.setTcnt (s.tcnt + (k + 1))) := by rw [Nat.add_assoc, Nat.add_comm 1]

/-- All the cycles to the end of the period are one TICK. -/
theorem run_fires {s : State} (h : s.Quiet) {k : Nat} (hlt : s.tcnt < s.cfg.timebase)
    (hk : s.tcnt + k = s.cfg.timebase) : core.run k s = tick (s.setTcnt 0) := by
  induction k generalizing s with
  | zero => omega
  | succ k ih =>
    by_cases hperiod : s.tcnt + 1 = s.cfg.timebase
    · obtain rfl : k = 0 := by omega
      exact (core_run_one s).trans (h.step_fires hperiod)
    · have hlt' : s.tcnt + 1 < s.cfg.timebase := by omega
      have hk' : s.tcnt + 1 + k = s.cfg.timebase := by omega
      exact (core_run_of_step (h.step_counts hperiod) k).trans (ih (h.setTcnt _) hlt' hk')

end State.Quiet

/-! ### The obligations on the timer (R144, R150, R151) -/

/-- Settles O51: by counting the cycles to the period, and the last of them. -/
theorem timerRaisesTickEveryPeriod : Obligations.TimerRaisesTickEveryPeriod := by
  intro s k hin hout hlt
  have hquiet : s.Quiet := ⟨hin, hout⟩
  exact ⟨hquiet.run_counts, hquiet.run_fires hlt⟩

/-- Settles O52: SYNC restarts the counter and presents nothing, so a whole period lies ahead. -/
theorem syncRealignsTheTick : Obligations.SyncRealignsTheTick := by
  intro s t hsync hwaiting htb hin hout hs
  have hframe := execSync_frame hsync hs
  rw [if_pos hwaiting] at hframe
  have h0 : t.tcnt = 0 := by rw [hframe]
  have hcfg : t.cfg = s.cfg := by rw [hframe]
  have hquiet : t.Quiet := ⟨by rw [hframe, hin], by rw [hframe, hout]⟩
  have hrestarted : t.setTcnt 0 = t := by rw [← h0]; rfl
  refine ⟨h0, ?_, fun k hk => ?_⟩
  · have hfires := hquiet.run_fires (k := t.cfg.timebase) (by rw [h0, hcfg]; exact htb) (by rw [h0, Nat.zero_add])
    rwa [hrestarted] at hfires
  · have hcounts := hquiet.run_counts (k := k) (by rwa [h0, Nat.zero_add])
    rwa [h0, Nat.zero_add] at hcounts

/-- Settles O53: the two steps of each order. The first operation leaves the other event presented (O42, O43), and a
command that keeps the counter leaves the TICK due. -/
theorem bothOrdersAreAdmitted : Obligations.BothOrdersAreAdmitted := by
  intro s t u i port P hdec hdue
  constructor
  · intro hexec htcnt
    have hfirst := stepRunsTheDecodedCommand { s with inputs := [.command port P, .clk] } port P [.clk] i rfl hdec
    have hframe := commandsKeepTheTickAgentsState _ _ _ hexec
    have hin : t.inputs = [.clk] := by rw [hframe]
    have hcfg : t.cfg = s.cfg := by rw [hframe]
    have hclk : t.nextEvent = .clk := by rw [State.nextEvent, hin]; rfl
    have hsecond := step_clk_fires hclk (by rw [htcnt, hcfg, hdue])
    rw [State.takeEvent, hin] at hsecond
    exact (core_run_two (hfirst.trans hexec)).trans hsecond
  · intro htick
    have hfirst := step_clk_fires (s := { s with inputs := [.clk, .command port P] }) rfl hdue
    obtain ⟨-, -, -, hcfg, hin, -⟩ := tickKeepsTheCommandAgentsState _ _ htick
    have hsecond := stepRunsTheDecodedCommand u port P [] i hin (by rw [hcfg, hdec])
    exact (core_run_two (hfirst.trans htick)).trans hsecond

end Sys2Proof.Machine
end

section
/-! PROOFS. RESET as an event, what a host observes first after it, and that whether the drivers are enabled holds no
TICK up (70_reset_and_hazards.md R160, R163, R179). -/

namespace Sys2Proof.Machine

/-! ### Stepping is not gated by the drivers (R179) -/

/-- Part 1 carries the flag along: it neither reads nor writes it. -/
theorem stepPart_withDrivers {s t : State} (h : stepPart s = .next t) (b : Bool) :
    stepPart { s with driversEnabled := b } = .next { t with driversEnabled := b } := by
  rcases stepPart_next h with ⟨h0, rfl⟩ | ⟨h0, hno, rfl⟩
  · exact stepPart_idle h0
  · rw [stepPart_running (s := { s with driversEnabled := b }) h0 hno, stepFiring_eq, stepFiring_eq]

/-- Part 2 carries the flag along, or a load sets it, whatever it was. -/
theorem loadPart_withDrivers (s : State) (b : Bool) :
    ∃ b', loadPart { s with driversEnabled := b } = { loadPart s with driversEnabled := b' } := by
  by_cases h0 : s.timeRemaining = 0
  · rcases tryLoadNext_cases s with ⟨h, _⟩ | ⟨h, hw, _⟩ | ⟨h, _⟩
    · exact ⟨b, by rw [loadPart_empty h, loadPart_empty (s := { s with driversEnabled := b }) h]⟩
    · exact ⟨b, by rw [loadPart_blocked h0 h hw, loadPart_blocked (s := { s with driversEnabled := b }) h0 h hw]; rfl⟩
    · exact ⟨true, by rw [loadPart_ok h0 h, loadPart_ok (s := { s with driversEnabled := b }) h0 h]; rfl⟩
  · exact ⟨b, by rw [loadPart_running h0, loadPart_running (s := { s with driversEnabled := b }) h0]⟩

/-- Settles O30: a next state by TICK's two parts; the fault by its condition (O19), which names registers that both
states share. -/
theorem driversDoNotGateStepping : Obligations.DriversDoNotGateStepping := by
  intro s b
  constructor
  · intro u hu
    obtain ⟨t, hstep, rfl⟩ := tick_next hu
    obtain ⟨b', hload⟩ := loadPart_withDrivers t b
    exact ⟨b', by rw [tick_of_stepPart (stepPart_withDrivers hstep b), hload]⟩
  · rintro ⟨⟩ hfault
    have hover := (tickStopsOnlyOnOverflow s).1.mp hfault
    exact (tickStopsOnlyOnOverflow { s with driversEnabled := b }).1.mpr hover

/-! ### RESET (R160, 10_state.md R31) -/

/-- After RESET every `dir` output stands at its forward level. -/
theorem resetOf_dirLevels_getElem? (cfg : Config) (epoch : Nat) {i : Nat} (h : i < cfg.n) :
    (State.resetOf cfg epoch).dirLevels[i]? = some (cfg.dirForwardLevel.getD i true) := by
  have haxis : (State.resetOf cfg epoch).axes[i]? = some Axis.reset := List.getElem?_replicate_of_lt h
  rw [dirLevels_getElem?, haxis]
  rfl

/-- Settles O49: the step is the event, whose registers are R31's values. -/
theorem resetEventEffect : Obligations.ResetEventEffect := by
  intro s rest h
  exact ⟨_, step_reset h, rfl, rfl, rfl, rfl, rfl, rfl, rfl, rfl, rfl, rfl, rfl, rfl, rfl, rfl, rfl,
    fun _ hi => resetOf_dirLevels_getElem? s.cfg (s.epoch + 1) hi⟩

/-! ### The first replies (R163) -/

theorem replies_sendReply (port : Byte) (payload : List Byte) (s : State) :
    (s.sendReply port payload).replies = s.replies ++ [(port, payload)] := by
  simp [State.replies, State.sendReply, State.emit]

/-- Axes that all stand at position 0 are reported as zero bytes. -/
theorem positionPayload_of_positions_zero {s : State} (h : ∀ a ∈ s.axes, a.position = 0) :
    s.positionPayload = List.replicate (3 * s.axes.length) 0 := by
  refine List.eq_replicate_iff.mpr ⟨positionPayload_length s, fun x hx => ?_⟩
  obtain ⟨a, ha, hx⟩ := List.mem_flatMap.mp hx
  have hshift : (0 : Word).sshiftRight s.cfg.sb = 0 := BitVec.zero_sshiftRight
  rw [h a ha, hshift] at hx
  exact List.eq_of_mem_replicate (n := 3) hx

/-- An idle node reports no time left. -/
theorem status_of_idle {s : State} (h : s.timeRemaining = 0) (code : Byte) :
    s.status code = [code, s.segmentKey, 0, 0, 0, s.readPosition, s.writePosition] := by
  rw [State.status, h]
  rfl

/-- The slot after slot 0 is slot 1: a buffer has two slots at least (00_scope.md R6). -/
theorem nextIndex_zero {c : Nat} (h : 2 ≤ c) : nextIndex c 0 = 1 := by
  rw [nextIndex]
  exact congrArg (BitVec.ofNat 8) (Nat.mod_eq_of_lt h)

/-- Settles O50: each operation's own lemma on R31's values; the first free slot is slot 1. -/
theorem firstBehaviourAfterReset : Obligations.FirstBehaviourAfterReset := by
  intro cfg epoch targets time key abs wfs hwf hn
  obtain ⟨_, hc, _⟩ := Config.wellFormed_iff.mp hwf
  have hnext := nextIndex_zero hc
  refine ⟨⟨_, rfl, ?_⟩, ⟨_, rfl, ?_⟩, tick_empty rfl rfl, ?_⟩
  · rw [replies_sendReply, status_of_idle rfl]
    rfl
  · rw [replies_sendReply, positionPayload_of_positions_zero fun a ha => ?_]
    · simp [State.replies, State.resetOf]
    · rw [List.eq_of_mem_replicate ha]
      rfl
  · have hne : nextIndex cfg.c 0 ≠ 0 := by rw [hnext]; decide
    have hroom : State.bufferFull { State.resetOf cfg epoch with out := [] } = false :=
      bufferFull_eq_false_iff.mpr hne
    rcases execStepRequest_cases (s := { State.resetOf cfg epoch with out := [] }) hn time key abs wfs with
      ⟨hfull, _⟩ | ⟨_, heq⟩
    · exact absurd (hfull.symm.trans hroom) (by decide)
    · refine ⟨_, heq, ?_, ?_⟩
      · rw [replies_sendReply, status_of_idle rfl]
        show [(13, [1, 0, 0, 0, 0, 0, nextIndex cfg.c 0])] = _
        rw [hnext]
      · show [(nextIndex cfg.c 0).toNat] = _
        rw [hnext]
        rfl

end Sys2Proof.Machine
end
